-- ==== Sys2Proof/Word.lean ====
section
/-! DEFINITION. The widths of CKHB's values (00_scope R7, R9): bytes of PKT_RAM, 16-bit ports, lengths and
checksums, and the 32-bit registers and command words. Every value is unsigned. -/

namespace Sys2Proof

/-- One byte of PKT_RAM (20_memory R60). -/
abbrev Byte := BitVec 8

/-- A 16-bit value: a port, a length, a checksum (00_scope R7). -/
abbrev Half := BitVec 16

/-- A 32-bit register or command word (00_scope R7, 30_encoding R80). -/
abbrev Word := BitVec 32

end Sys2Proof
end

