-- ==== Sys2Proof/Config.lean ====
section
/-! DEFINITION. The implementation parameters the spec fixes (00_scope R7) and the one free value of the
model. The OPEN parameters TICK_PERIOD and BUSY_LATENCY do not appear in the steps (92_eei_decisions,
OPEN parameters; log entry 17). -/

namespace Sys2Proof.Config

/-- PKT_RAM_BYTES (00_scope R7, 20_memory R60). -/
abbrev pktRamBytes : Nat := 4096

/-- TX_BASE, the first byte of the TX packet (00_scope R7). -/
abbrev txBase : Nat := 0x000

/-- TX_LEN, the bytes of a built packet (00_scope R7, 41_builder R130). -/
abbrev txLen : Nat := 40

/-- RX_BASE, where a received packet starts (00_scope R7, 20_memory R61). -/
abbrev rxBase : Nat := 0x040

/-- RX_CAP, the bytes of the RX region (00_scope R7, 20_memory R61). -/
abbrev rxCap : Nat := 4032

/-- The aperture address of PKT_RAM offset 0; registers lie below it (20_memory R60). -/
abbrev windowBase : Nat := 0x1000

/-- One past the last aperture address (20_memory R60). -/
abbrev apertureEnd : Nat := 0x2000

/-- FREE VALUE (93_implementation_defined U3): whether the n-th racing byte read gives the new value
(true) or the old one (false). Nothing constrains it (log entry 9). -/
opaque raceTakesNew : Nat → Bool

end Sys2Proof.Config
end

