-- ==== Sys2Proof/Syntax.lean ====
section
/-! DEFINITION. The 13 commands of CKHB (30_encoding R86), one constructor per row of opcode_table.json.
Every value of an operand's type is legal (40_checksum R104, R105), so no command is ill-formed as syntax;
what is ill-formed is a command WORD, which WellFormed.lean checks. -/

namespace Sys2Proof

/-- A command (30_encoding R86). -/
inductive Instr where
  /-- NOP, 43_control R193. -/
  | nop
  /-- CK_CLR, 40_checksum R103. -/
  | ckClr
  /-- CK_ADDW imm16, 40_checksum R104: the 16-bit word to add. -/
  | ckAddw (imm16 : Half)
  /-- CK_ADDB imm8, 40_checksum R105: the odd trailing byte. -/
  | ckAddb (imm8 : Byte)
  /-- CK_FIN, 40_checksum R106. -/
  | ckFin
  /-- CK_BUF, 40_checksum R107. -/
  | ckBuf
  /-- START, 41_builder R140. -/
  | start
  /-- TX_OK, 41_builder R142. -/
  | txOk
  /-- TX_FAIL, 41_builder R144. -/
  | txFail
  /-- RX_PUSH, 42_matcher R170. -/
  | rxPush
  /-- RX_ERR, 42_matcher R172. -/
  | rxErr
  /-- MATCH_TEST, 42_matcher R173. -/
  | matchTest
  /-- SRST, 43_control R194. -/
  | srst
  deriving DecidableEq, Repr

end Sys2Proof
end

