-- ==== Sys2Proof/Decode.lean ====
section
/-! DEFINITION. The decoder of 30_encoding R91, total on all 32-bit words and rejecting by name, and the
encoder of R82 to R86. -/

namespace Sys2Proof

/-- Why a word is no command (30_encoding R87, R88). -/
inductive DecodeError where
  /-- A reserved opcode (R87). -/
  | opcode
  /-- An assigned opcode with a nonzero reserved bit (R88). -/
  | rsvd
  deriving DecidableEq, Repr

/-- OP, bits [7:0] of every command word (30_encoding R81). -/
def opOf (w : Word) : Byte := w.extractLsb' 0 8

/-- A format N word: every bit of [31:8] must be 0 (30_encoding R82, R91). -/
def decodeN (w : Word) (i : Instr) : Except DecodeError Instr :=
  if w.extractLsb' 8 24 = 0#24 then .ok i else .error .rsvd

/-- A format W word: bits [15:8] must be 0, the operand is [31:16] (30_encoding R83, R91). -/
def decodeW (w : Word) : Except DecodeError Instr :=
  if w.extractLsb' 8 8 = 0#8 then .ok (.ckAddw (w.extractLsb' 16 16)) else .error .rsvd

/-- A format B word: bits [31:24] and [15:8] must be 0, the operand is [23:16] (30_encoding R84, R91). -/
def decodeB (w : Word) : Except DecodeError Instr :=
  if w.extractLsb' 24 8 = 0#8 ∧ w.extractLsb' 8 8 = 0#8 then .ok (.ckAddb (w.extractLsb' 16 8))
  else .error .rsvd

/-- The format N commands with their opcodes (30_encoding R86, R91). -/
def opcodesN : List (Byte × Instr) :=
  [(0x00#8, .nop), (0x01#8, .ckClr), (0x04#8, .ckFin), (0x05#8, .ckBuf), (0x10#8, .start), (0x11#8, .txOk),
   (0x12#8, .txFail), (0x20#8, .rxPush), (0x21#8, .rxErr), (0x22#8, .matchTest), (0x30#8, .srst)]

/-- Decode a command word (30_encoding R91): the three cases of the rule, every other opcode being reserved. -/
def decode (w : Word) : Except DecodeError Instr :=
  if opOf w = 0x02#8 then decodeW w
  else if opOf w = 0x03#8 then decodeB w
  else
    match opcodesN.lookup (opOf w) with
    | some i => decodeN w i
    | none => .error .opcode

/-- The instruction the decoder reads from an opcode-table word of `nbits` bits. A command is exactly one
32-bit word (30_encoding R80), so a wider one is none. -/
def decodeTableWord (nbits w : Nat) : Option Instr :=
  if nbits ≤ 32 then
    match decode (BitVec.ofNat 32 (w % 2 ^ nbits)) with
    | .ok i => some i
    | .error _ => none
  else none

/-- The command word of an instruction, written by the patterns of the formats (30_encoding R82 to R86). -/
def encode : Instr → Word
  | .nop => 0x00000000#32
  | .ckClr => 0x00000001#32
  | .ckAddw imm16 => imm16 ++ (0x00#8 ++ 0x02#8 : BitVec 16)
  | .ckAddb imm8 => (0x00#8 ++ imm8 : BitVec 16) ++ (0x00#8 ++ 0x03#8 : BitVec 16)
  | .ckFin => 0x00000004#32
  | .ckBuf => 0x00000005#32
  | .start => 0x00000010#32
  | .txOk => 0x00000011#32
  | .txFail => 0x00000012#32
  | .rxPush => 0x00000020#32
  | .rxErr => 0x00000021#32
  | .matchTest => 0x00000022#32
  | .srst => 0x00000030#32

end Sys2Proof
end

