-- ==== Sys2Proof/Machine/State.lean ====
section
/-! DEFINITION. The state of CKHB as plain data (10_state R20: the registers, PKT_RAM, the pending-command
latch, the pins), the reasons a step can stop, and the state after reset (70_reset R240). Four fields are
the model's own and marked so: history, hostWrites, draws, schedule. -/

namespace Sys2Proof.Machine

/-- STATUS.STATE (10_state R24). Its encoding is `Session.code`; value 7 is never produced. -/
inductive Session where
  /-- No session running. -/
  | init
  /-- SYN built, waiting for the HOST to transmit it. -/
  | synReady
  /-- SYN transmitted, deadline counting. -/
  | synSent
  /-- SYN-ACK accepted, ACK built, waiting for the HOST to transmit it. -/
  | ackReady
  /-- ACK transmitted. Terminal. -/
  | established
  /-- Deadline expired with no match. Terminal. -/
  | timedOut
  /-- The HOST reported a failed transmission. Terminal. -/
  | aborted
  deriving DecidableEq, Repr

/-- ERRINFO.CAUSE (60_exceptions R201). Codes 6 to 15 are never recorded. -/
inductive Cause where
  /-- No error captured since reset. -/
  | none
  /-- A CMD write while BUSY = 1. -/
  | busy
  /-- A reserved opcode. -/
  | opcode
  /-- A nonzero reserved bit. -/
  | rsvd
  /-- A range that does not fit. -/
  | range
  /-- The session state does not admit the command. -/
  | state
  deriving DecidableEq, Repr

/-- The registers of 10_state R22, by name. -/
inductive Reg where
  | ctrl | status | cmd | errinfo | errCmd | ckRange | ckAcc | ckResult | clientAddr | serverAddr
  | ports | seqSyn | seqAck | winTtl | ipId | timeout | remain | rxLen | peerSeq | rxErrCnt
  deriving DecidableEq, Repr

/-- The width of a HOST access (20_memory R65). -/
inductive AccessSize where
  /-- 8 bits. -/
  | byte
  /-- 16 bits. -/
  | half
  /-- 32 bits. -/
  | word
  deriving DecidableEq, Repr

/-- One move of an agent (00_scope R6) or of the reset pin. Addresses are aperture byte addresses, relative
to the block base (20_memory R60); an address above 0x1FFF is one the platform routes to the block. -/
inductive Event where
  /-- HOST reads. -/
  | read (addr : Word) (size : AccessSize)
  /-- HOST writes; the byte at the lowest address is data bits [7:0] (20_memory R63). -/
  | write (addr : Word) (size : AccessSize) (data : Word)
  /-- HOST repeats a 32-bit read until `(data & mask) = value` (30_encoding R92, POLL). -/
  | poll (addr : Word) (mask : Word) (value : Word)
  /-- One pulse on tick_i (42_matcher R175). -/
  | tick
  /-- A turn of BLOCK (43_control R192). -/
  | block
  /-- The environment drives the pin rst (70_reset R240). -/
  | rst (level : Bool)
  deriving DecidableEq, Repr

/-- The bus port's response to the last HOST access (10_state R47, 60_exceptions R210). -/
inductive BusResp where
  /-- No access answered since reset (log entry 6). -/
  | idle
  /-- A write was accepted. -/
  | written
  /-- A read returned data. -/
  | data (d : Word)
  /-- Error response to a write. -/
  | writeErr
  /-- Error response to a read, with its data. -/
  | readErr (d : Word)
  deriving DecidableEq, Repr

/-- P.CFG, the configuration latched at issue (10_state R46). -/
structure Cfg where
  /-- CTRL[4:3]: bit 0 is TCP_CSUM_EN, bit 1 is IP_CSUM_HDR. -/
  csum : BitVec 2
  clientAddr : Word
  serverAddr : Word
  ports : Word
  seqSyn : Word
  seqAck : Word
  /-- WIN_TTL[23:0]. -/
  winTtl : BitVec 24
  /-- IP_ID[15:0]. -/
  ipId : Half
  timeout : Word
  deriving DecidableEq, Repr

/-- The pending-command latch P (10_state R46), meaningful only while BUSY = 1. -/
structure Latch where
  /-- P.CMD, the command word. -/
  cmd : Word
  /-- P.RANGE, a copy of CK_RANGE. -/
  range : Word
  /-- P.RXLEN, a copy of RX_LEN[15:0]. -/
  rxLen : Half
  /-- P.CFG. -/
  cfg : Cfg
  deriving DecidableEq, Repr

/-- The model's own record of what an observer has seen (log entry 13). No step of the machine reads it. -/
structure History where
  /-- Rising edges of chan_own_o since reset (70_reset R262). -/
  chanRises : Nat
  /-- Falling edges of chan_own_o since reset (70_reset R262). -/
  chanFalls : Nat
  /-- Sequence numbers of the SYN-ACKs accepted since the last START, newest first (10_state R49 d). -/
  accepted : List Word
  /-- The TIMEOUT latched by the session's SYN TX_OK (10_state R49 e); 0 before it. -/
  budget : Word
  /-- Ticks counted in SYN_SENT since the last START (42_matcher R177 a). -/
  ticks : Nat
  deriving DecidableEq, Repr

/-- PKT_RAM (20_memory R60): the bytes written since reset, as pairs (offset, byte) with strictly rising
offsets. An offset that is not listed has no value (70_reset R241; log entry 4). -/
abbrev Memory := List Host.Cell

/-- The machine. -/
structure State where
  /-- CTRL[4:0]; [31:5] is RAZ/WI (10_state R25). -/
  ctrl : BitVec 5
  /-- STATUS.STATE (10_state R24). -/
  session : Session
  /-- STATUS.BUSY. -/
  busy : Bool
  /-- STATUS.CHAN_OWN, also the pin chan_own_o. -/
  chanOwn : Bool
  /-- STATUS.TX_PEND. -/
  txPend : Bool
  /-- STATUS.LAST_MATCH. -/
  lastMatch : Bool
  /-- STATUS.ACC_OVF. -/
  accOvf : Bool
  /-- STATUS.DONE_P. -/
  doneP : Bool
  /-- STATUS.TXREQ_P. -/
  txreqP : Bool
  /-- STATUS.ERR_P. -/
  errP : Bool
  /-- ERRINFO.CAUSE (10_state R28). -/
  errInfo : Cause
  /-- ERR_CMD (10_state R29). -/
  errCmd : Word
  /-- CK_RANGE (10_state R30). -/
  ckRange : Word
  /-- CK_ACC (10_state R43). -/
  ckAcc : Word
  /-- CK_RESULT[15:0]; [31:16] reads 0 (10_state R44). -/
  ckResult : Half
  /-- CLIENT_ADDR (10_state R31). -/
  clientAddr : Word
  /-- SERVER_ADDR (10_state R32). -/
  serverAddr : Word
  /-- PORTS (10_state R33). -/
  ports : Word
  /-- SEQ_SYN (10_state R34). -/
  seqSyn : Word
  /-- SEQ_ACK (10_state R35). -/
  seqAck : Word
  /-- WIN_TTL[23:0]; [31:24] is RAZ/WI (10_state R36). -/
  winTtl : BitVec 24
  /-- IP_ID[15:0]; [31:16] is RAZ/WI (10_state R37). -/
  ipId : Half
  /-- TIMEOUT (10_state R38). -/
  timeout : Word
  /-- REMAIN (10_state R39). -/
  remain : Word
  /-- RX_LEN[15:0]; [31:16] is RAZ/WI (10_state R40). -/
  rxLen : Half
  /-- PEER_SEQ (10_state R41). -/
  peerSeq : Word
  /-- RXERR_CNT (10_state R42). -/
  rxErrCnt : Word
  /-- PKT_RAM (20_memory R60). -/
  ram : Memory
  /-- The pending-command latch P (10_state R46). -/
  latch : Latch
  /-- The level of the pin rst (10_state R47). -/
  rst : Bool
  /-- The bus response pins (10_state R47). -/
  bus : BusResp
  /-- MODEL'S OWN: the PKT_RAM ranges (offset, bytes) the HOST has written since the pending command was
  issued, newest first (70_reset R253; log entry 10). -/
  hostWrites : List (Nat × Nat)
  /-- MODEL'S OWN: how many free race choices have been drawn (70_reset R253; log entry 9). -/
  draws : Nat
  /-- MODEL'S OWN: what an observer has seen (log entry 13). -/
  history : History
  /-- MODEL'S OWN: the agents' moves still to come, next first (00_scope R6; log entry 1). -/
  schedule : List Event
  deriving DecidableEq, Repr

/-- Why the model stops with a fault. -/
inductive Fault where
  /-- A command or the HOST reads a PKT_RAM byte not written since reset (70_reset R241, 93 U1). Raised by
  CK_BUF, RX_PUSH, MATCH_TEST and HOST reads. Safe: the spec asks for the fault. -/
  | unwrittenByte (offset : Nat)
  /-- A command reads at an offset outside PKT_RAM. Raised by CK_BUF, RX_PUSH and MATCH_TEST with a latch that
  issue refuses (43_control R191), so no run from reset reaches it. Safe. -/
  | outsidePktRam (offset : Nat)
  /-- A command completes whose footprint the HOST wrote while BUSY = 1 (70_reset R253, 93 U2). Raised by
  BLOCK. Safe: the spec asks for the fault. -/
  | footprintWritten
  deriving DecidableEq, Repr

/-- Why the model gives a step no meaning. -/
inductive Refusal where
  /-- An instruction that has no meaning yet. Raised by no arm of this model. Safe. -/
  | notModelled (mnemonic : String)
  /-- BLOCK is to complete a latched word that is no command. Issue latches only words that decode (43_control
  R191), so no run from reset reaches it. Raised by BLOCK. Safe. -/
  | latchedWordIsNoCommand
  deriving DecidableEq, Repr

/-- The latch after reset: discarded (70_reset R240). Its contents are a DESIGN CHOICE (log entry 5). -/
def Latch.discarded : Latch :=
  { cmd := 0#32, range := 0#32, rxLen := 0#16,
    cfg := { csum := 0#2, clientAddr := 0#32, serverAddr := 0#32, ports := 0#32, seqSyn := 0#32,
             seqAck := 0#32, winTtl := 0#24, ipId := 0#16, timeout := 0#32 } }

/-- The observer's record after reset (log entry 13). -/
def History.empty : History :=
  { chanRises := 0, chanFalls := 0, accepted := [], budget := 0#32, ticks := 0 }

/-- The state right after reset (70_reset R240, R241): every register 0, STATE = INIT, no byte of PKT_RAM
written. The fields bus, hostWrites, draws, history, schedule and the latch's contents are DESIGN CHOICE (log
entries 1, 5, 6, 9, 10, 13). -/
def State.reset : State :=
  { ctrl := 0#5, session := .init, busy := false, chanOwn := false, txPend := false, lastMatch := false,
    accOvf := false, doneP := false, txreqP := false, errP := false, errInfo := .none, errCmd := 0#32,
    ckRange := 0#32, ckAcc := 0#32, ckResult := 0#16, clientAddr := 0#32, serverAddr := 0#32,
    ports := 0#32, seqSyn := 0#32, seqAck := 0#32, winTtl := 0#24, ipId := 0#16, timeout := 0#32,
    remain := 0#32, rxLen := 0#16, peerSeq := 0#32, rxErrCnt := 0#32, ram := [],
    latch := Latch.discarded, rst := false, bus := .idle, hostWrites := [], draws := 0,
    history := History.empty, schedule := [] }

end Sys2Proof.Machine
end

