-- ==== Sys2Proof/Machine/Operands.lean ====
section
/-! DEFINITION. Every operand form: the immediates of formats W and B (30_encoding R85), the fields of the
latched registers (10_state R30, R33, R36, R46), and the two byte orders, the wire's (20_memory R62) and the
bus's (R63). -/

namespace Sys2Proof.Machine

/-- Bits [15:0] of a register. -/
def lowHalf (w : Word) : Half := w.extractLsb' 0 16

/-- Bits [31:16] of a register. -/
def highHalf (w : Word) : Half := w.extractLsb' 16 16

/-- The value a CK_ADDW adds: `zext_32(imm16)` (30_encoding R85). -/
def operandW (imm16 : Half) : Word := imm16.setWidth 32

/-- The value a CK_ADDB adds: `zext_32({imm8, 0x00})`, the byte in the high-order position of a zero-padded
word (30_encoding R85, 90_conflicts C1). -/
def operandB (imm8 : Byte) : Word := (imm8 ++ 0#8 : BitVec 16).setWidth 32

/-- BASE of a CK_RANGE value (10_state R30). -/
def rangeBase (r : Word) : Nat := (lowHalf r).toNat

/-- LEN of a CK_RANGE value (10_state R30). -/
def rangeLen (r : Word) : Nat := (highHalf r).toNat

/-- CLIENT_PORT of a PORTS value (10_state R33). -/
def clientPort (p : Word) : Half := lowHalf p

/-- SERVER_PORT of a PORTS value (10_state R33). -/
def serverPort (p : Word) : Half := highHalf p

/-- WINDOW of a WIN_TTL value (10_state R36). -/
def windowOf (v : BitVec 24) : Half := v.extractLsb' 0 16

/-- TTL of a WIN_TTL value (10_state R36). -/
def ttlOf (v : BitVec 24) : Byte := v.extractLsb' 16 8

/-- CTRL[3] as latched: compute the TCP checksum (10_state R25). -/
def Cfg.tcpCsumEn (c : Cfg) : Bool := c.csum.getLsbD 0

/-- CTRL[4] as latched: IP checksum over the IP header only (10_state R25). -/
def Cfg.ipCsumHdr (c : Cfg) : Bool := c.csum.getLsbD 1

/-- The bytes `PutBE16` writes (00_scope R10): most significant byte at the lower offset. -/
def be16Bytes (v : Half) : List Byte := [v.extractLsb' 8 8, v.extractLsb' 0 8]

/-- The bytes `PutBE32` writes (00_scope R10). -/
def be32Bytes (v : Word) : List Byte :=
  [v.extractLsb' 24 8, v.extractLsb' 16 8, v.extractLsb' 8 8, v.extractLsb' 0 8]

/-- The bus data of a read: the byte at the lowest address is in bits [7:0] (20_memory R63); a narrower read
is the number R63 writes, so its upper bits are 0 (log entry 7). -/
def busData : List Byte → Word
  | [] => 0#32
  | b :: bs => b.setWidth 32 ||| busData bs <<< 8

/-- The `n` bytes a write of bus data stores, lowest address first (20_memory R63; log entry 8). -/
def busLanes : Nat → Word → List Byte
  | 0, _ => []
  | n + 1, d => d.extractLsb' 0 8 :: busLanes n (d >>> 8)

/-- The bytes of an access (20_memory R65). -/
def AccessSize.bytes : AccessSize → Nat
  | .byte => 1
  | .half => 2
  | .word => 4

end Sys2Proof.Machine
end

