-- ==== Sys2Proof/Machine/Flags.lean ====
section
/-! DEFINITION. Every flag computation: the carry out of the accumulator (40_checksum R104), the words STATUS,
CTRL and ERRINFO present to the HOST (10_state R25, R26, R28), the W1C rule (R23), and the output pins
irq_o and chan_own_o (60_exceptions R220, 10_state R47). -/

namespace Sys2Proof.Machine

/-- `zext_33(a) + zext_33(b)` (40_checksum R104). -/
def sum33 (a b : Word) : BitVec 33 := a.setWidth 33 + b.setWidth 33

/-- The accumulator after adding: `s[31:0]` (40_checksum R104). -/
def accSum (a b : Word) : Word := (sum33 a b).setWidth 32

/-- The carry out of bit 31: `s[32]` (40_checksum R104). -/
def accCarry (a b : Word) : Bool := (sum33 a b).getLsbD 32

/-- A flag as the bit `k` of a word. -/
def flagBit (b : Bool) (k : Nat) : Word := (BitVec.ofBool b).setWidth 32 <<< k

/-- The encoding of STATUS.STATE (10_state R24). -/
def Session.code : Session → BitVec 3
  | .init => 0#3
  | .synReady => 1#3
  | .synSent => 2#3
  | .ackReady => 3#3
  | .established => 4#3
  | .timedOut => 5#3
  | .aborted => 6#3

/-- ESTABLISHED, TIMED_OUT and ABORTED (10_state R24). -/
def Session.terminal : Session → Bool
  | .init => false
  | .synReady => false
  | .synSent => false
  | .ackReady => false
  | .established => true
  | .timedOut => true
  | .aborted => true

/-- The cause codes (60_exceptions R201). -/
def Cause.code : Cause → BitVec 4
  | .none => 0#4
  | .busy => 1#4
  | .opcode => 2#4
  | .rsvd => 3#4
  | .range => 4#4
  | .state => 5#4

/-- The cause a decode error raises (30_encoding R87, R88). -/
def Cause.ofDecode : DecodeError → Cause
  | .opcode => .opcode
  | .rsvd => .rsvd

/-- STATUS as the HOST reads it (10_state R26). -/
def State.statusWord (s : State) : Word :=
  s.session.code.setWidth 32 ||| flagBit s.busy 3 ||| flagBit s.chanOwn 4 ||| flagBit s.txPend 5
    ||| flagBit s.lastMatch 6 ||| flagBit s.accOvf 7 ||| flagBit s.doneP 8 ||| flagBit s.txreqP 9
    ||| flagBit s.errP 10

/-- A W1C bit after a write: 1 clears, 0 leaves (10_state R23). -/
def w1c (old : Bool) (w : Word) (k : Nat) : Bool := old && !w.getLsbD k

/-- CTRL.DONE_IE (10_state R25). -/
def State.doneIe (s : State) : Bool := s.ctrl.getLsbD 0

/-- CTRL.TXREQ_IE (10_state R25). -/
def State.txreqIe (s : State) : Bool := s.ctrl.getLsbD 1

/-- CTRL.ERR_IE (10_state R25). -/
def State.errIe (s : State) : Bool := s.ctrl.getLsbD 2

/-- The pin irq_o (60_exceptions R220). -/
def State.irq (s : State) : Bool :=
  (s.doneP && s.doneIe) || (s.txreqP && s.txreqIe) || (s.errP && s.errIe)

/-- The pin chan_own_o (10_state R47). -/
def State.chanOwnPin (s : State) : Bool := s.chanOwn

end Sys2Proof.Machine
end

