-- ==== Sys2Proof/Machine/Ops.lean ====
section
/-! DEFINITION. The operations every meaning is written from: PKT_RAM (20_memory R60 to R63, 00_scope R10), the
command error (60_exceptions R202), the channel and the terminal states (43_control R197), the latch (R191),
the completion (R192) and reset (70_reset R240). CKHB takes no trap (60_exceptions R223): the command error
and the pending bits are all an event does, and the HOST's W1C write is the only return (R224). -/

namespace Sys2Proof.Machine

/-- The byte last written at an offset since reset, if any (70_reset R241). -/
def Memory.byteAt : Memory → Nat → Option Byte
  | [], _ => none
  | (a, b) :: m, k => if a = k then some b else Memory.byteAt m k

/-- Write one byte, keeping the offsets strictly rising. -/
def Memory.put : Memory → Nat → Byte → Memory
  | [], k, v => [(k, v)]
  | (a, b) :: m, k, v =>
    if k < a then (k, v) :: (a, b) :: m
    else if k = a then (k, v) :: m
    else (a, b) :: Memory.put m k v

/-- `MemWrite` (00_scope R10): the bytes at consecutive offsets. -/
def Memory.putAll : Memory → Nat → List Byte → Memory
  | m, _, [] => m
  | m, k, b :: bs => Memory.putAll (Memory.put m k b) (k + 1) bs

/-- The offsets are strictly rising, at least `lo`, and inside PKT_RAM. -/
def Memory.wfFrom : Nat → Memory → Bool
  | _, [] => true
  | lo, (a, _) :: m => decide (lo ≤ a) && decide (a < Config.pktRamBytes) && Memory.wfFrom (a + 1) m

/-- The canonical form of PKT_RAM: equal memories are equal lists. -/
def Memory.wf (m : Memory) : Bool := Memory.wfFrom 0 m

/-- Read one byte; a byte not written since reset has no value (70_reset R241). -/
def readByte (m : Memory) (o : Nat) : Except Fault Byte :=
  if o < Config.pktRamBytes then
    match Memory.byteAt m o with
    | some b => .ok b
    | none => .error (.unwrittenByte o)
  else .error (.outsidePktRam o)

/-- `MemRead(o, n)` (00_scope R10). -/
def readBytes (m : Memory) (o : Nat) : Nat → Except Fault (List Byte)
  | 0 => .ok []
  | n + 1 =>
    match readByte m o with
    | .error f => .error f
    | .ok b =>
      match readBytes m (o + 1) n with
      | .error f => .error f
      | .ok bs => .ok (b :: bs)

/-- `BE16(o)` (00_scope R10). -/
def readBE16 (m : Memory) (o : Nat) : Except Fault Half :=
  match readByte m o with
  | .error f => .error f
  | .ok b0 =>
    match readByte m (o + 1) with
    | .error f => .error f
    | .ok b1 => .ok (b0 ++ b1)

/-- `BE32(o)` (00_scope R10). -/
def readBE32 (m : Memory) (o : Nat) : Except Fault Word :=
  match readBE16 m o with
  | .error f => .error f
  | .ok h0 =>
    match readBE16 m (o + 2) with
    | .error f => .error f
    | .ok h1 => .ok (h0 ++ h1)

/-- `raise CmdError(c)` for the command word `w` (60_exceptions R202): the first error since ERR_P was last 0
is captured, ERR_P is set, nothing else changes. -/
def cmdError (c : Cause) (w : Word) (s : State) : State :=
  { s with
    errInfo := if s.errP then s.errInfo else c
    errCmd := if s.errP then s.errCmd else w
    errP := true }

/-- `STATUS.CHAN_OWN <- level`; the observer counts the edges of chan_own_o (10_state R47, 70_reset R262). -/
def setChanOwn (level : Bool) (s : State) : State :=
  { s with
    chanOwn := level
    history := { s.history with
      chanRises := s.history.chanRises + (level && !s.chanOwn).toNat
      chanFalls := s.history.chanFalls + (!level && s.chanOwn).toNat } }

/-- `EnterTerminal(st)`, the one way into a terminal state (43_control R197). -/
def enterTerminal (st : Session) (s : State) : State :=
  { setChanOwn false s with session := st, doneP := true }

/-- A built packet waits in the TX region for the HOST: TX_PEND and TXREQ_P (41_builder R140, 42_matcher
R170). -/
def offerPacket (st : Session) (s : State) : State :=
  { s with txPend := true, txreqP := true, session := st }

/-- The observer opens a fresh session record at START (70_reset R245; log entry 13). -/
def openSession (s : State) : State :=
  { s with history := { s.history with accepted := [], budget := 0#32, ticks := 0 } }

/-- The configuration as issue latches it (10_state R46, 43_control R191). -/
def State.cfg (s : State) : Cfg :=
  { csum := s.ctrl.extractLsb' 3 2, clientAddr := s.clientAddr, serverAddr := s.serverAddr,
    ports := s.ports, seqSyn := s.seqSyn, seqAck := s.seqAck, winTtl := s.winTtl, ipId := s.ipId,
    timeout := s.timeout }

/-- The last lines of `Issue` (43_control R191): latch the word and its operands, set BUSY. The record of HOST
writes starts afresh (log entry 10). -/
def latchCommand (w : Word) (s : State) : State :=
  { s with
    latch := { cmd := w, range := s.ckRange, rxLen := s.rxLen, cfg := s.cfg }
    busy := true
    hostWrites := [] }

/-- The last line of `Complete` (43_control R192): BUSY is cleared, and the record of HOST writes with it. -/
def retire (s : State) : State := { s with busy := false, hostWrites := [] }

/-- The bus port answers an access (10_state R47). -/
def answer (r : BusResp) (s : State) : State := { s with bus := r }

/-- The environment drives rst to `level` (70_reset R240): while it is asserted, and at its deassertion, the
state is the reset state. The schedule and the count of free draws belong to the environment and go on (log
entries 9 and 14). -/
def driveReset (level : Bool) (s : State) : State :=
  if level || s.rst then
    { State.reset with rst := level, draws := s.draws, schedule := s.schedule }
  else s

/-- Two ranges (offset, bytes) share a byte. -/
def rangesMeet (p q : Nat × Nat) : Bool :=
  decide (max p.1 q.1 < min (p.1 + p.2) (q.1 + q.2))

end Sys2Proof.Machine
end

