-- ==== Sys2Proof/Machine/Checksum.lean ====
section
/-! DEFINITION. The Checksum Engine (40_checksum): its functions R100 to R102 and the commands CK_CLR, CK_ADDW,
CK_ADDB, CK_FIN and CK_BUF. -/

namespace Sys2Proof.Machine

/-- `Words(s)` (40_checksum R100): big-endian octet pairs; an odd last byte is bits [15:8] of a zero-padded
pair. -/
def wordsOf : List Byte → List Half
  | [] => []
  | [b] => [b ++ 0#8]
  | b0 :: b1 :: bs => (b0 ++ b1) :: wordsOf bs

/-- `Sum(s)`, the sum of the words mod 2^32 (40_checksum R102). -/
def sumOf (s : List Byte) : Word := BitVec.ofNat 32 ((wordsOf s).map BitVec.toNat).sum

/-- The first fold `t1` (40_checksum R101): 17 bits. -/
def foldOnce (a : Word) : BitVec 17 := (highHalf a).setWidth 17 + (lowHalf a).setWidth 17

/-- `Fold(a)` (40_checksum R101): two folds, no third. -/
def fold (a : Word) : Half :=
  let t1 := foldOnce a
  let t2 := t1 + (t1.extractLsb' 16 1).setWidth 17
  t2.extractLsb' 0 16

/-- `Checksum(s) = ~Fold(Sum(s))` (40_checksum R102). -/
def checksum (s : List Byte) : Half := ~~~(fold (sumOf s))

/-- Add a value to the accumulator; the carry out of bit 31 is sticky in ACC_OVF (40_checksum R104, R105). -/
def accumulate (v : Word) (s : State) : State :=
  { s with ckAcc := accSum s.ckAcc v, accOvf := s.accOvf || accCarry s.ckAcc v }

/-- The engine sums a byte sequence afresh and leaves the sum and the checksum (40_checksum R107, 41_builder
R135). -/
def loadEngine (bytes : List Byte) (s : State) : State :=
  { s with ckAcc := sumOf bytes, accOvf := false, ckResult := checksum bytes }

/-- CK_CLR (40_checksum R103). -/
def execCkClr (s : State) : Host.Outcome State Fault Refusal :=
  .next { s with ckAcc := 0#32, accOvf := false }

/-- CK_ADDW (40_checksum R104). -/
def execCkAddw (imm16 : Half) (s : State) : Host.Outcome State Fault Refusal :=
  .next (accumulate (operandW imm16) s)

/-- CK_ADDB (40_checksum R105). -/
def execCkAddb (imm8 : Byte) (s : State) : Host.Outcome State Fault Refusal :=
  .next (accumulate (operandB imm8) s)

/-- CK_FIN (40_checksum R106). -/
def execCkFin (s : State) : Host.Outcome State Fault Refusal :=
  .next { s with ckResult := ~~~(fold s.ckAcc) }

/-- CK_BUF (40_checksum R107), over the range latched at issue. -/
def execCkBuf (s : State) : Host.Outcome State Fault Refusal :=
  match readBytes s.ram (rangeBase s.latch.range) (rangeLen s.latch.range) with
  | .error f => .fault f
  | .ok bytes => .next (loadEngine bytes s)

end Sys2Proof.Machine
end

