-- ==== Sys2Proof/Machine/Builder.lean ====
section
/-! DEFINITION. The Header Builder (41_builder): the packet layout R130, `Build` R133 with its two checksums
R134 and R135, and the commands START, TX_OK and TX_FAIL. -/

namespace Sys2Proof.Machine

/-- Which packet is built (41_builder R133). -/
inductive PacketKind where
  | syn
  | ack
  deriving DecidableEq, Repr

/-- The TCP sequence number: SEQ_SYN or SEQ_ACK (41_builder R130). -/
def PacketKind.seqNumber (k : PacketKind) (cfg : Cfg) : Word :=
  match k with
  | .syn => cfg.seqSyn
  | .ack => cfg.seqAck

/-- The TCP acknowledgment number: 0 for the SYN, the peer's sequence number + 1 mod 2^32 for the ACK
(41_builder R130, R138, R139). -/
def PacketKind.ackNumber (k : PacketKind) (peerSeq : Word) : Word :=
  match k with
  | .syn => 0#32
  | .ack => peerSeq + 1#32

/-- The TCP flags byte: SYN only or ACK only (41_builder R130, R143). -/
def PacketKind.flags : PacketKind → Byte
  | .syn => 0x02#8
  | .ack => 0x10#8

/-- The 20 bytes of the IPv4 header (41_builder R130, R131) with the given header checksum. -/
def ipHeader (cfg : Cfg) (ipCsum : Half) : List Byte :=
  [0x45#8, 0x00#8] ++ be16Bytes 0x0028#16 ++ be16Bytes cfg.ipId ++ be16Bytes 0x0000#16
    ++ [ttlOf cfg.winTtl, 0x06#8] ++ be16Bytes ipCsum
    ++ be32Bytes cfg.clientAddr ++ be32Bytes cfg.serverAddr

/-- The 20 bytes of the TCP header (41_builder R130, R132) with the given TCP checksum. -/
def tcpHeader (k : PacketKind) (cfg : Cfg) (peerSeq : Word) (tcpCsum : Half) : List Byte :=
  be16Bytes (clientPort cfg.ports) ++ be16Bytes (serverPort cfg.ports)
    ++ be32Bytes (k.seqNumber cfg) ++ be32Bytes (k.ackNumber peerSeq)
    ++ [0x50#8, k.flags] ++ be16Bytes (windowOf cfg.winTtl) ++ be16Bytes tcpCsum ++ be16Bytes 0x0000#16

/-- The pseudo-header of the TCP checksum (41_builder R134). -/
def pseudoHeader (cfg : Cfg) : List Byte :=
  be32Bytes cfg.clientAddr ++ be32Bytes cfg.serverAddr ++ [0x00#8, 0x06#8, 0x00#8, 0x14#8]

/-- The TCP checksum field: computed over pseudo-header and TCP header with the field zero if TCP_CSUM_EN, else
left 0 (41_builder R134). -/
def tcpCsumField (k : PacketKind) (cfg : Cfg) (peerSeq : Word) : Half :=
  if cfg.tcpCsumEn then checksum (pseudoHeader cfg ++ tcpHeader k cfg peerSeq 0#16) else 0#16

/-- The bytes the IP checksum covers, its own field zero and the TCP checksum final: the 40-byte packet, or the
20-byte IP header if IP_CSUM_HDR (41_builder R135 to R137, 90_conflicts C3). -/
def ipCovered (k : PacketKind) (cfg : Cfg) (peerSeq : Word) : List Byte :=
  if cfg.ipCsumHdr then ipHeader cfg 0#16
  else ipHeader cfg 0#16 ++ tcpHeader k cfg peerSeq (tcpCsumField k cfg peerSeq)

/-- The 40 bytes of the finished packet (41_builder R130, R133). -/
def txPacket (k : PacketKind) (cfg : Cfg) (peerSeq : Word) : List Byte :=
  ipHeader cfg (checksum (ipCovered k cfg peerSeq))
    ++ tcpHeader k cfg peerSeq (tcpCsumField k cfg peerSeq)

/-- `Build(kind, cfg, peer_seq)` (41_builder R133): all 40 TX bytes afresh; the engine is left with the IP
checksum's values (R137). -/
def build (k : PacketKind) (cfg : Cfg) (peerSeq : Word) (s : State) : State :=
  loadEngine (ipCovered k cfg peerSeq)
    { s with ram := Memory.putAll s.ram Config.txBase (txPacket k cfg peerSeq) }

/-- `PutBE16(a, v)` on PKT_RAM (00_scope R10). -/
def putBE16 (a : Nat) (v : Half) (m : Memory) : Memory := Memory.putAll m a (be16Bytes v)

/-- `PutBE32(a, v)` on PKT_RAM (00_scope R10). -/
def putBE32 (a : Nat) (v : Word) (m : Memory) : Memory := Memory.putAll m a (be32Bytes v)

/-- `Build` as 41_builder R133 writes it, line by line on PKT_RAM, up to the two checksum steps. The machine runs
`build`; an obligation says the two agree. -/
def buildFieldsStepwise (k : PacketKind) (cfg : Cfg) (peerSeq : Word) (m : Memory) : Memory :=
  let m := Memory.put (Memory.put m 0x00 0x45#8) 0x01 0x00#8
  let m := putBE16 0x02 0x0028#16 m
  let m := putBE16 0x04 cfg.ipId m
  let m := putBE16 0x06 0x0000#16 m
  let m := Memory.put (Memory.put m 0x08 (ttlOf cfg.winTtl)) 0x09 0x06#8
  let m := putBE16 0x0A 0x0000#16 m
  let m := putBE32 0x10 cfg.serverAddr (putBE32 0x0C cfg.clientAddr m)
  let m := putBE16 0x16 (serverPort cfg.ports) (putBE16 0x14 (clientPort cfg.ports) m)
  let m := putBE32 0x1C (k.ackNumber peerSeq) (putBE32 0x18 (k.seqNumber cfg) m)
  let m := Memory.put (Memory.put m 0x20 0x50#8) 0x21 k.flags
  let m := putBE16 0x22 (windowOf cfg.winTtl) m
  putBE16 0x26 0x0000#16 (putBE16 0x24 0x0000#16 m)

/-- `TcpChecksum(cfg)` of 41_builder R134 on PKT_RAM, run if CTRL[3] was 1 at issue (R133). -/
def tcpChecksumStepwise (cfg : Cfg) (m : Memory) : Except Fault Memory :=
  if cfg.tcpCsumEn then
    match readBytes m 0x14 20 with
    | .error f => .error f
    | .ok bytes => .ok (putBE16 0x24 (checksum (pseudoHeader cfg ++ bytes)) m)
  else .ok m

/-- `IpChecksum(cfg)` of 41_builder R135 on PKT_RAM and the engine. -/
def ipChecksumStepwise (cfg : Cfg) (s : State) : Except Fault State :=
  match readBytes s.ram 0x00 (if cfg.ipCsumHdr then 20 else 40) with
  | .error f => .error f
  | .ok bytes => .ok { loadEngine bytes s with ram := putBE16 0x0A (checksum bytes) s.ram }

/-- `Build` step by step (41_builder R133 to R135). -/
def buildStepwise (k : PacketKind) (cfg : Cfg) (peerSeq : Word) (s : State) : Except Fault State :=
  match tcpChecksumStepwise cfg (buildFieldsStepwise k cfg peerSeq s.ram) with
  | .error f => .error f
  | .ok m => ipChecksumStepwise cfg { s with ram := m }

/-- START (41_builder R140). -/
def execStart (s : State) : Host.Outcome State Fault Refusal :=
  if s.session = .init then
    .next (offerPacket .synReady (build .syn s.latch.cfg 0#32 (setChanOwn true (openSession s))))
  else .next (cmdError .state s.latch.cmd s)

/-- The SYN's transmission is reported (41_builder R142, SYN_READY): the deadline starts, or has already passed
if TIMEOUT = 0. -/
def beginWait (s : State) : State :=
  let t : State :=
    { s with txPend := false, remain := s.latch.cfg.timeout,
             history := { s.history with budget := s.latch.cfg.timeout } }
  if s.latch.cfg.timeout = 0#32 then enterTerminal .timedOut t else { t with session := .synSent }

/-- TX_OK (41_builder R142). -/
def execTxOk (s : State) : Host.Outcome State Fault Refusal :=
  match s.session with
  | .synReady => .next (beginWait s)
  | .ackReady => .next (enterTerminal .established { s with txPend := false })
  | .init => .next (cmdError .state s.latch.cmd s)
  | .synSent => .next (cmdError .state s.latch.cmd s)
  | .established => .next (cmdError .state s.latch.cmd s)
  | .timedOut => .next (cmdError .state s.latch.cmd s)
  | .aborted => .next (cmdError .state s.latch.cmd s)

/-- TX_FAIL (41_builder R144). -/
def execTxFail (s : State) : Host.Outcome State Fault Refusal :=
  if s.session = .synReady ∨ s.session = .ackReady then
    .next (enterTerminal .aborted { s with txPend := false })
  else .next (cmdError .state s.latch.cmd s)

end Sys2Proof.Machine
end

