-- ==== Sys2Proof/Machine/Matcher.lean ====
section
/-! DEFINITION. The SYN-ACK Matcher (42_matcher): `Match` R162 with its structural rejections R163, the commands
RX_PUSH, RX_ERR and MATCH_TEST, and the deadline tick R175. -/

namespace Sys2Proof.Machine

/-- The four criteria on the fields read (42_matcher R162, R164): nothing else is checked. -/
def fourCriteria (cfg : Cfg) (sport dport : Half) (ack : Word) (flags : Byte) : Bool :=
  sport == serverPort cfg.ports && dport == clientPort cfg.ports
    && flags.getLsbD 1 && flags.getLsbD 4 && ack == cfg.seqSyn + 1#32

/-- The TCP part of `Match` with the TCP header at offset `t` (42_matcher R162): the sequence number if the four
criteria hold. -/
def matchTcp (cfg : Cfg) (m : Memory) (t : Nat) : Except Fault (Option Word) :=
  match readBE16 m t with
  | .error f => .error f
  | .ok sport =>
    match readBE16 m (t + 2) with
    | .error f => .error f
    | .ok dport =>
      match readBE32 m (t + 4) with
      | .error f => .error f
      | .ok seq =>
        match readBE32 m (t + 8) with
        | .error f => .error f
        | .ok ack =>
          match readByte m (t + 13) with
          | .error f => .error f
          | .ok flags => .ok (if fourCriteria cfg sport dport ack flags then some seq else none)

/-- `Match(cfg, n)` (42_matcher R162): `some seq` is the verdict 1 with the peer's sequence number, `none` the
verdict 0. The IP header length is the packet's own (R161); a packet too short for the fields is rejected
unread (R163). -/
def matchPacket (cfg : Cfg) (n : Nat) (m : Memory) : Except Fault (Option Word) :=
  if n < 40 then .ok none
  else
    match readByte m Config.rxBase with
    | .error f => .error f
    | .ok b0 =>
      let ihl := (b0.extractLsb' 0 4).toNat
      if ihl < 5 then .ok none
      else if 4 * ihl + 20 > n then .ok none
      else matchTcp cfg m (Config.rxBase + 4 * ihl)

/-- `Match` with the operands the latch holds (42_matcher R170, R173). -/
def State.latchedMatch (s : State) : Except Fault (Option Word) :=
  matchPacket s.latch.cfg s.latch.rxLen.toNat s.ram

/-- The accepting branch of RX_PUSH (42_matcher R170): the peer's sequence number is kept and the ACK built. -/
def acceptSynAck (seq : Word) (s : State) : State :=
  offerPacket .ackReady
    (build .ack s.latch.cfg seq
      { s with lastMatch := true, peerSeq := seq,
               history := { s.history with accepted := seq :: s.history.accepted } })

/-- RX_PUSH (42_matcher R170). -/
def execRxPush (s : State) : Host.Outcome State Fault Refusal :=
  if s.session = .synSent then
    match s.latchedMatch with
    | .error f => .fault f
    | .ok none => .next { s with lastMatch := false }
    | .ok (some seq) => .next (acceptSynAck seq s)
  else .next s

/-- RX_ERR (42_matcher R172): a saturating count. -/
def execRxErr (s : State) : Host.Outcome State Fault Refusal :=
  if s.rxErrCnt = 0xFFFFFFFF#32 then .next s else .next { s with rxErrCnt := s.rxErrCnt + 1#32 }

/-- MATCH_TEST (42_matcher R173). -/
def execMatchTest (s : State) : Host.Outcome State Fault Refusal :=
  match s.latchedMatch with
  | .error f => .fault f
  | .ok verdict => .next { s with lastMatch := verdict.isSome }

/-- One pulse on tick_i (42_matcher R175). -/
def tick (s : State) : State :=
  if s.session = .synSent then
    let t : State :=
      { s with remain := s.remain - 1#32, history := { s.history with ticks := s.history.ticks + 1 } }
    if t.remain = 0#32 then enterTerminal .timedOut t else t
  else s

end Sys2Proof.Machine
end

