-- ==== Sys2Proof/Machine/Control.lean ====
section
/-! DEFINITION. The control commands NOP and SRST (43_control R193, R194). -/

namespace Sys2Proof.Machine

/-- NOP (43_control R193): its only effect is the BUSY pulse around it. -/
def execNop (s : State) : Host.Outcome State Fault Refusal := .next s

/-- The states SRST accepts (43_control R194). -/
def Session.idleOrTerminal : Session → Bool
  | .init => true
  | .synReady => false
  | .synSent => false
  | .ackReady => false
  | .established => true
  | .timedOut => true
  | .aborted => true

/-- SRST (43_control R194). -/
def execSrst (s : State) : Host.Outcome State Fault Refusal :=
  if s.session.idleOrTerminal then
    .next { s with session := .init, txPend := false, lastMatch := false, remain := 0#32,
                   peerSeq := 0#32 }
  else .next (cmdError .state s.latch.cmd s)

end Sys2Proof.Machine
end

