-- ==== Sys2Proof/Machine/Dispatch.lean ====
section
/-! DEFINITION. The meaning of each command: the pseudocode of its completion (43_control R192), one arm per
constructor. BUSY is set at issue and cleared by the completion around it (Machine/Block.lean). -/

namespace Sys2Proof.Machine

/-- The completion pseudocode of a command (30_encoding R86, 43_control R192). -/
def exec (i : Instr) (s : State) : Host.Outcome State Fault Refusal :=
  match i with
  | .nop => Sys2Proof.Machine.execNop s
  | .ckClr => Sys2Proof.Machine.execCkClr s
  | .ckAddw imm16 => Sys2Proof.Machine.execCkAddw imm16 s
  | .ckAddb imm8 => Sys2Proof.Machine.execCkAddb imm8 s
  | .ckFin => Sys2Proof.Machine.execCkFin s
  | .ckBuf => Sys2Proof.Machine.execCkBuf s
  | .start => Sys2Proof.Machine.execStart s
  | .txOk => Sys2Proof.Machine.execTxOk s
  | .txFail => Sys2Proof.Machine.execTxFail s
  | .rxPush => Sys2Proof.Machine.execRxPush s
  | .rxErr => Sys2Proof.Machine.execRxErr s
  | .matchTest => Sys2Proof.Machine.execMatchTest s
  | .srst => Sys2Proof.Machine.execSrst s

end Sys2Proof.Machine
end

