-- ==== Sys2Proof/Machine/Block.lean ====
section
/-! DEFINITION. The two events of a command (43_control R190): its issue R191 and its completion by BLOCK R192,
with the footprints of 20_memory R77 and the hazard fault of 70_reset R253. -/

namespace Sys2Proof.Machine

/-- The range checks of issue (43_control R191; 40_checksum R107, 42_matcher R168), computed without
truncation. -/
def rangeError (i : Instr) (s : State) : Bool :=
  match i with
  | .ckBuf => decide (Config.pktRamBytes < rangeBase s.ckRange + rangeLen s.ckRange)
  | .rxPush => decide (Config.rxCap < s.rxLen.toNat)
  | .matchTest => decide (Config.rxCap < s.rxLen.toNat)
  | .nop => false
  | .ckClr => false
  | .ckAddw _ => false
  | .ckAddb _ => false
  | .ckFin => false
  | .start => false
  | .txOk => false
  | .txFail => false
  | .rxErr => false
  | .srst => false

/-- `Issue(w)` (43_control R191), with the causes in the order BUSY, OPCODE, RSVD, RANGE (60_exceptions R203). -/
def issue (w : Word) (s : State) : State :=
  if s.busy then cmdError .busy w s
  else
    match decode w with
    | .error e => cmdError (Cause.ofDecode e) w s
    | .ok i => if rangeError i s then cmdError .range w s else latchCommand w s

/-- The pending RX_PUSH would accept (42_matcher R170). -/
def State.accepts (s : State) : Bool :=
  decide (s.session = .synSent) &&
    match s.latchedMatch with
    | .ok (some _) => true
    | .ok none => false
    | .error _ => false

/-- The 40 TX bytes (20_memory R61). -/
def txRange : Nat × Nat := (Config.txBase, Config.txLen)

/-- The footprint of a command, as ranges (offset, bytes) (20_memory R77). -/
def footprint (i : Instr) (s : State) : List (Nat × Nat) :=
  match i with
  | .ckBuf => [(rangeBase s.latch.range, rangeLen s.latch.range)]
  | .start => [txRange]
  | .rxPush => (Config.rxBase, s.latch.rxLen.toNat) :: if s.accepts then [txRange] else []
  | .matchTest => [(Config.rxBase, s.latch.rxLen.toNat)]
  | .nop => []
  | .ckClr => []
  | .ckAddw _ => []
  | .ckAddb _ => []
  | .ckFin => []
  | .txOk => []
  | .txFail => []
  | .rxErr => []
  | .srst => []

/-- The HOST has written a byte of the command's footprint while it was pending (70_reset R253). -/
def footprintHazard (i : Instr) (s : State) : Bool :=
  (footprint i s).any fun p => s.hostWrites.any fun q => rangesMeet p q

/-- `Complete()` (43_control R192): enabled if and only if BUSY = 1; a BLOCK turn with BUSY = 0 does nothing (log
entry 18). -/
def complete (s : State) : Host.Outcome State Fault Refusal :=
  if s.busy then
    match decode s.latch.cmd with
    | .error _ => .refused .latchedWordIsNoCommand
    | .ok i =>
      if footprintHazard i s then .fault .footprintWritten
      else
        match exec i s with
        | .next t => .next (retire t)
        | .fault f => .fault f
        | .refused r => .refused r
  else .next s

/-- PKT_RAM as the pending command would leave it, if it completed now (70_reset R253, for race reads). -/
def pendingRam (s : State) : Option Memory :=
  if s.busy then
    match decode s.latch.cmd with
    | .error _ => none
    | .ok i =>
      match exec i s with
      | .next t => some t.ram
      | .fault _ => none
      | .refused _ => none
  else none

end Sys2Proof.Machine
end

