-- ==== Sys2Proof/Machine/Bus.lean ====
section
/-! DEFINITION. The host bus port: the register map (10_state R22, R23, R48), the width and alignment rules
(20_memory R65, R66), the PKT_RAM window (R63) with the race of 70_reset R253, and bus errors (60_exceptions
R210). -/

namespace Sys2Proof.Machine

/-- The byte offset of a register (10_state R22). -/
def Reg.offset : Reg → Word
  | .ctrl => 0x000#32
  | .status => 0x004#32
  | .cmd => 0x008#32
  | .errinfo => 0x00C#32
  | .errCmd => 0x010#32
  | .ckRange => 0x014#32
  | .ckAcc => 0x018#32
  | .ckResult => 0x01C#32
  | .clientAddr => 0x020#32
  | .serverAddr => 0x024#32
  | .ports => 0x028#32
  | .seqSyn => 0x02C#32
  | .seqAck => 0x030#32
  | .winTtl => 0x034#32
  | .ipId => 0x038#32
  | .timeout => 0x03C#32
  | .remain => 0x040#32
  | .rxLen => 0x044#32
  | .peerSeq => 0x048#32
  | .rxErrCnt => 0x04C#32

/-- Every register of 10_state R22, in the order of the table. -/
def Reg.all : List Reg :=
  [.ctrl, .status, .cmd, .errinfo, .errCmd, .ckRange, .ckAcc, .ckResult, .clientAddr, .serverAddr,
   .ports, .seqSyn, .seqAck, .winTtl, .ipId, .timeout, .remain, .rxLen, .peerSeq, .rxErrCnt]

/-- The register at a byte offset, none at a reserved one (10_state R22, R48). -/
def Reg.atOffset (o : Nat) : Option Reg := Reg.all.find? fun r => decide (r.offset.toNat = o)

/-- What a 32-bit read of a register returns (10_state R22 to R44); CMD reads 0, reserved fields read 0. -/
def readReg (r : Reg) (s : State) : Word :=
  match r with
  | .ctrl => s.ctrl.setWidth 32
  | .status => s.statusWord
  | .cmd => 0#32
  | .errinfo => s.errInfo.code.setWidth 32
  | .errCmd => s.errCmd
  | .ckRange => s.ckRange
  | .ckAcc => s.ckAcc
  | .ckResult => s.ckResult.setWidth 32
  | .clientAddr => s.clientAddr
  | .serverAddr => s.serverAddr
  | .ports => s.ports
  | .seqSyn => s.seqSyn
  | .seqAck => s.seqAck
  | .winTtl => s.winTtl.setWidth 32
  | .ipId => s.ipId.setWidth 32
  | .timeout => s.timeout
  | .remain => s.remain
  | .rxLen => s.rxLen.setWidth 32
  | .peerSeq => s.peerSeq
  | .rxErrCnt => s.rxErrCnt

/-- What a 32-bit write to a register does (10_state R22 to R44): RW stores the implemented bits, RO ignores it,
STATUS clears W1C bits, CMD issues. -/
def writeReg (r : Reg) (w : Word) (s : State) : State :=
  match r with
  | .ctrl => { s with ctrl := w.extractLsb' 0 5 }
  | .status => { s with doneP := w1c s.doneP w 8, txreqP := w1c s.txreqP w 9, errP := w1c s.errP w 10 }
  | .cmd => issue w s
  | .errinfo => s
  | .errCmd => s
  | .ckRange => { s with ckRange := w }
  | .ckAcc => s
  | .ckResult => s
  | .clientAddr => { s with clientAddr := w }
  | .serverAddr => { s with serverAddr := w }
  | .ports => { s with ports := w }
  | .seqSyn => { s with seqSyn := w }
  | .seqAck => { s with seqAck := w }
  | .winTtl => { s with winTtl := w.extractLsb' 0 24 }
  | .ipId => { s with ipId := w.extractLsb' 0 16 }
  | .timeout => { s with timeout := w }
  | .remain => s
  | .rxLen => { s with rxLen := w.extractLsb' 0 16 }
  | .peerSeq => s
  | .rxErrCnt => s

/-- The access is no bus error (20_memory R65, R66): naturally aligned, 32-bit in the register region, inside
the aperture. -/
def accessOk (addr : Word) (size : AccessSize) : Bool :=
  decide (addr.toNat % size.bytes = 0) &&
    (if addr.toNat < Config.windowBase then decide (size = .word)
     else decide (addr.toNat < Config.apertureEnd))

/-- The address lies in the register region (20_memory R60). -/
def inRegisters (addr : Word) : Bool := decide (addr.toNat < Config.windowBase)

/-- The PKT_RAM offset of a window address (20_memory R60). -/
def windowOffset (addr : Word) : Nat := addr.toNat - Config.windowBase

/-- A read of the register region; reserved offsets read 0 (10_state R48). -/
def readRegisterAt (o : Nat) (s : State) : Word :=
  match Reg.atOffset o with
  | some r => readReg r s
  | none => 0#32

/-- A write of the register region; reserved offsets ignore it (10_state R48). -/
def writeRegisterAt (o : Nat) (w : Word) (s : State) : State :=
  match Reg.atOffset o with
  | some r => writeReg r w s
  | none => s

/-- The byte a HOST read returns when the pending command may be writing it (70_reset R253): the old byte, or
the new one where the free choice says so. -/
def racedByte (s : State) (k o : Nat) (old : Byte) : Byte :=
  match pendingRam s with
  | none => old
  | some m =>
    match Memory.byteAt m o with
    | none => old
    | some new => if new = old then old else if Config.raceTakesNew (s.draws + k) then new else old

/-- The bytes a HOST read of the window returns, from offset `o`; `k` numbers the lane (20_memory R63, 70_reset
R241, R253). -/
def readWindow (s : State) (k o : Nat) : Nat → Except Fault (List Byte)
  | 0 => .ok []
  | n + 1 =>
    match readByte s.ram o with
    | .error f => .error f
    | .ok old =>
      match readWindow s (k + 1) (o + 1) n with
      | .error f => .error f
      | .ok bs => .ok (racedByte s k o old :: bs)

/-- A HOST read (20_memory R63 to R68): it changes the bus response and, while BUSY = 1, the model's count of
free draws; a bus error returns data 0 (60_exceptions R210). -/
def hostRead (addr : Word) (size : AccessSize) (s : State) : Host.Outcome State Fault Refusal :=
  if accessOk addr size then
    if inRegisters addr then .next (answer (.data (readRegisterAt addr.toNat s)) s)
    else
      match readWindow s 0 (windowOffset addr) size.bytes with
      | .error f => .fault f
      | .ok bs =>
        .next (answer (.data (busData bs)) { s with draws := s.draws + if s.busy then size.bytes else 0 })
  else .next (answer (.readErr 0#32) s)

/-- The HOST's bytes land in PKT_RAM; while a command is pending the range is kept for the hazard of 70_reset
R253. -/
def writeWindow (o : Nat) (bytes : List Byte) (s : State) : State :=
  { s with
    ram := Memory.putAll s.ram o bytes
    hostWrites := if s.busy then (o, bytes.length) :: s.hostWrites else s.hostWrites }

/-- A HOST write (20_memory R63 to R68); a bus error changes nothing (60_exceptions R210). -/
def hostWrite (addr : Word) (size : AccessSize) (data : Word) (s : State) : State :=
  if accessOk addr size then
    if inRegisters addr then answer .written (writeRegisterAt addr.toNat data s)
    else answer .written (writeWindow (windowOffset addr) (busLanes size.bytes data) s)
  else answer .writeErr s

/-- The data the last response carried, 0 if it carried none. -/
def BusResp.readData : BusResp → Word
  | .idle => 0#32
  | .written => 0#32
  | .data d => d
  | .writeErr => 0#32
  | .readErr d => d

end Sys2Proof.Machine
end

