-- ==== Sys2Proof/Machine/Events.lean ====
section
/-! DEFINITION. What one event does (00_scope R6): the moves of HOST, TICK and BLOCK and of the reset pin, and
what happens when no move is scheduled. -/

namespace Sys2Proof.Machine

/-- The HOST polls once (30_encoding R92): if the data do not match, BLOCK gets a turn and the poll is tried
again (log entry 3). -/
def pollOnce (addr mask value : Word) (s : State) : Host.Outcome State Fault Refusal :=
  match hostRead addr .word s with
  | .next t =>
    if t.bus.readData &&& mask = value then .next t
    else .next { t with schedule := .block :: .poll addr mask value :: t.schedule }
  | .fault f => .fault f
  | .refused r => .refused r

/-- One event while rst is deasserted. -/
def runEventAwake (e : Event) (s : State) : Host.Outcome State Fault Refusal :=
  match e with
  | .read addr size => hostRead addr size s
  | .write addr size data => .next (hostWrite addr size data s)
  | .poll addr mask value => pollOnce addr mask value s
  | .tick => .next (tick s)
  | .block => complete s
  | .rst level => .next (driveReset level s)

/-- One event while rst is asserted: only the pin itself has an effect (70_reset R240; log entry 14). -/
def runEventInReset (e : Event) (s : State) : Host.Outcome State Fault Refusal :=
  match e with
  | .read _ _ => .next s
  | .write _ _ _ => .next s
  | .poll _ _ _ => .next s
  | .tick => .next s
  | .block => .next s
  | .rst level => .next (driveReset level s)

/-- One event. -/
def runEvent (e : Event) (s : State) : Host.Outcome State Fault Refusal :=
  if s.rst then runEventInReset e s else runEventAwake e s

/-- No move is scheduled: BLOCK completes a pending command (weak fairness, 70_reset R263 a), otherwise the block
idles (70_reset R242; log entry 2). -/
def runUnscheduled (s : State) : Host.Outcome State Fault Refusal :=
  if s.rst then .next s else complete s

/-- TICK and BLOCK in one clock cycle: the tick is applied first (42_matcher R176). -/
def sameCycle : List Event := [.tick, .block]

end Sys2Proof.Machine
end

