-- ==== Sys2Proof/Machine/Script.lean ====
section
/-! DEFINITION. The HOST command scripts of 30_encoding R92 and the pseudo-instructions of R93, as the events they
expand to. Machine/Assembler.lean reads their text form. -/

namespace Sys2Proof.Machine

/-- `WR <reg>, <value>` (30_encoding R92). -/
def scriptWr (r : Reg) (v : Word) : List Event := [.write r.offset .word v]

/-- `WR <addr>, <value>` (30_encoding R92). -/
def scriptWrAt (addr v : Word) : List Event := [.write addr .word v]

/-- `WRB <addr>, <byte>` (30_encoding R92). -/
def scriptWrb (addr : Word) (b : Byte) : List Event := [.write addr .byte (b.setWidth 32)]

/-- `WRH <addr>, <half>` (30_encoding R92). -/
def scriptWrh (addr : Word) (h : Half) : List Event := [.write addr .half (h.setWidth 32)]

/-- `RD <reg>` (30_encoding R92). -/
def scriptRd (r : Reg) : List Event := [.read r.offset .word]

/-- `RD <addr>` (30_encoding R92). -/
def scriptRdAt (addr : Word) : List Event := [.read addr .word]

/-- `POLL <reg>, <mask>, <value>` (30_encoding R92). -/
def scriptPoll (r : Reg) (mask value : Word) : List Event := [.poll r.offset mask value]

/-- `TICK` (30_encoding R92). -/
def scriptTick : List Event := [.tick]

/-- `<MNEMONIC> …`: one 32-bit write of the encoding to CMD (30_encoding R92). -/
def scriptCmd (i : Instr) : List Event := [.write Reg.cmd.offset .word (encode i)]

/-- `WAITIDLE` (30_encoding R93). -/
def scriptWaitIdle : List Event := scriptPoll .status 0x8#32 0x0#32

/-- `DO <cmd>` (30_encoding R93). -/
def scriptDo (i : Instr) : List Event := scriptCmd i ++ scriptWaitIdle

/-- `CKSUM <base>, <len>` (30_encoding R93). -/
def scriptCksum (base len : Half) : List Event :=
  scriptWr .ckRange (len.setWidth 32 <<< 16 ||| base.setWidth 32) ++ scriptDo .ckBuf

/-- The byte writes of `PUTPKT`, from window address `addr` (30_encoding R93). -/
def scriptPutBytes (addr : Word) : List Byte → List Event
  | [] => []
  | b :: bs => scriptWrb addr b ++ scriptPutBytes (addr + 1#32) bs

/-- `PUTPKT <bytes…>` (30_encoding R93). -/
def scriptPutPkt (bytes : List Byte) : List Event :=
  scriptPutBytes 0x1040#32 bytes ++ scriptWr .rxLen (BitVec.ofNat 32 bytes.length)

/-- `ACKIRQ <mask>` (30_encoding R93). -/
def scriptAckIrq (mask : Word) : List Event := scriptWr .status (mask &&& 0x700#32)

/-- `SETPORTS <client>, <server>` (30_encoding R93). -/
def scriptSetPorts (client server : Half) : List Event :=
  scriptWr .ports (server.setWidth 32 <<< 16 ||| client.setWidth 32)

end Sys2Proof.Machine
end

