-- ==== Sys2Proof/Machine/Assembler.lean ====
section
/-! DEFINITION. The text form of HOST command scripts (30_encoding R92, R93; 92_eei_decisions D43): one operation a
line, `;` starts a comment, numbers are decimal or 0x hexadecimal, names are case-insensitive. A line that is no
operation assembles to nothing (log entry 21). -/

namespace Sys2Proof.Machine

/-- The fields of a line, in lower case: `;` ends the line, blanks and commas separate (log entry 21). `cur` is the
field being read, backwards. -/
def fieldsFrom (cur : List Char) : List Char → List (List Char)
  | [] => if cur.isEmpty then [] else [cur.reverse]
  | c :: cs =>
    if c = ';' then (if cur.isEmpty then [] else [cur.reverse])
    else if c = ' ' ∨ c = ',' ∨ c = '\t' then
      if cur.isEmpty then fieldsFrom [] cs else cur.reverse :: fieldsFrom [] cs
    else fieldsFrom (c.toLower :: cur) cs

/-- The value of a lower-case digit. -/
def digitValue (c : Char) : Nat :=
  if '0' ≤ c ∧ c ≤ '9' then c.toNat - 48 else if 'a' ≤ c ∧ c ≤ 'f' then c.toNat - 87 else 16

/-- The number some digits of a base stand for, `acc` being the digits before them. -/
def digitsFrom (base acc : Nat) : List Char → Option Nat
  | [] => some acc
  | c :: cs => if digitValue c < base then digitsFrom base (base * acc + digitValue c) cs else none

/-- A number: decimal, or hexadecimal after 0x (30_encoding R92). -/
def parseNat : List Char → Option Nat
  | [] => none
  | ['0', 'x'] => none
  | '0' :: 'x' :: cs => digitsFrom 16 0 cs
  | c :: cs => digitsFrom 10 0 (c :: cs)

/-- A number that fits its field. -/
def parseBits (n : Nat) (f : List Char) : Option (BitVec n) :=
  match parseNat f with
  | some v => if v < 2 ^ n then some (BitVec.ofNat n v) else none
  | none => none

/-- A byte of PUTPKT: two hexadecimal digits, as 95_test_vectors writes them (log entry 21). -/
def parseHexByte : List Char → Option Byte
  | [h, l] => (digitsFrom 16 0 [h, l]).map (BitVec.ofNat 8)
  | _ => none

/-- The bytes of PUTPKT. -/
def parseHexBytes : List (List Char) → Option (List Byte)
  | [] => some []
  | f :: fs =>
    match parseHexByte f, parseHexBytes fs with
    | some b, some bs => some (b :: bs)
    | _, _ => none

/-- The name of a register in lower case (10_state R22). -/
def Reg.name : Reg → String
  | .ctrl => "ctrl"
  | .status => "status"
  | .cmd => "cmd"
  | .errinfo => "errinfo"
  | .errCmd => "err_cmd"
  | .ckRange => "ck_range"
  | .ckAcc => "ck_acc"
  | .ckResult => "ck_result"
  | .clientAddr => "client_addr"
  | .serverAddr => "server_addr"
  | .ports => "ports"
  | .seqSyn => "seq_syn"
  | .seqAck => "seq_ack"
  | .winTtl => "win_ttl"
  | .ipId => "ip_id"
  | .timeout => "timeout"
  | .remain => "remain"
  | .rxLen => "rx_len"
  | .peerSeq => "peer_seq"
  | .rxErrCnt => "rxerr_cnt"

/-- The register a field names. -/
def parseReg (f : List Char) : Option Reg := Reg.all.find? fun r => decide (r.name.toList = f)

/-- `<reg|addr>` (30_encoding R92). -/
def parseTarget (f : List Char) : Option Word :=
  match parseReg f with
  | some r => some r.offset
  | none => parseBits 32 f

/-- The mnemonics of format N in lower case (30_encoding R86). -/
def mnemonicsN : List (String × Instr) :=
  [("nop", .nop), ("ck_clr", .ckClr), ("ck_fin", .ckFin), ("ck_buf", .ckBuf), ("start", .start), ("tx_ok", .txOk),
   ("tx_fail", .txFail), ("rx_push", .rxPush), ("rx_err", .rxErr), ("match_test", .matchTest), ("srst", .srst)]

/-- A command with its operand (30_encoding R92). -/
def parseCommand : List (List Char) → Option Instr
  | [m] => (mnemonicsN.find? fun p => decide (p.1.toList = m)).map Prod.snd
  | [m, f] =>
    if m = "ck_addw".toList then (parseBits 16 f).map .ckAddw
    else if m = "ck_addb".toList then (parseBits 8 f).map .ckAddb
    else none
  | _ => none

/-- The events of an operation with no field after its name (30_encoding R92, R93). -/
def parsePlain (op : List Char) : Option (List Event) :=
  if op = "tick".toList then some scriptTick
  else if op = "waitidle".toList then some scriptWaitIdle
  else (parseCommand [op]).map scriptCmd

/-- The events of an operation with one field. -/
def parseUnary (op f : List Char) : Option (List Event) :=
  if op = "rd".toList then (parseTarget f).map scriptRdAt
  else if op = "ackirq".toList then (parseBits 32 f).map scriptAckIrq
  else (parseCommand [op, f]).map scriptCmd

/-- The events of an operation with two fields. -/
def parseBinary (op f g : List Char) : Option (List Event) :=
  if op = "wr".toList then
    match parseTarget f, parseBits 32 g with
    | some a, some v => some (scriptWrAt a v)
    | _, _ => none
  else if op = "wrb".toList then
    match parseBits 32 f, parseBits 8 g with
    | some a, some b => some (scriptWrb a b)
    | _, _ => none
  else if op = "wrh".toList then
    match parseBits 32 f, parseBits 16 g with
    | some a, some h => some (scriptWrh a h)
    | _, _ => none
  else if op = "cksum".toList then
    match parseBits 16 f, parseBits 16 g with
    | some b, some n => some (scriptCksum b n)
    | _, _ => none
  else if op = "setports".toList then
    match parseBits 16 f, parseBits 16 g with
    | some c, some p => some (scriptSetPorts c p)
    | _, _ => none
  else none

/-- The events of an operation with three fields. -/
def parseTernary (op f g h : List Char) : Option (List Event) :=
  if op = "poll".toList then
    match parseReg f, parseBits 32 g, parseBits 32 h with
    | some r, some m, some v => some (scriptPoll r m v)
    | _, _, _ => none
  else none

/-- The events of a line's fields; an empty line has none. -/
def parseFields : List (List Char) → Option (List Event)
  | [] => some []
  | op :: fs =>
    if op = "do".toList then (parseCommand fs).map scriptDo
    else if op = "putpkt".toList then (parseHexBytes fs).map scriptPutPkt
    else
      match fs with
      | [] => parsePlain op
      | [f] => parseUnary op f
      | [f, g] => parseBinary op f g
      | [f, g, h] => parseTernary op f g h
      | _ => none

/-- The events of one line (30_encoding R92, R93). -/
def assembleLine (line : String) : Option (List Event) := parseFields (fieldsFrom [] line.toList)

/-- The events of a script, line after line. -/
def assemble : List String → Option (List Event)
  | [] => some []
  | l :: ls =>
    match assembleLine l, assemble ls with
    | some a, some b => some (a ++ b)
    | _, _ => none

end Sys2Proof.Machine
end

