-- ==== Sys2Proof/Machine/Step.lean ====
section
/-! DEFINITION. The step: the next scheduled event runs (00_scope R6), and with none scheduled BLOCK completes a
pending command or the block idles. CKHB has no program counter and fetches nothing (10_state R21): a command
word reaches it by a HOST write to CMD and waits in the latch, so the latch is where the next step finds the
instruction it runs (log entry 1). -/

namespace Sys2Proof.Machine

/-- One step of the machine. -/
def step (s : State) : Host.Outcome State Fault Refusal :=
  match s.schedule with
  | [] => runUnscheduled s
  | e :: rest => runEvent e { s with schedule := rest }

/-- `s` with a command word pending as issue latches it (43_control R191) and BLOCK to move next, rst
deasserted: the very next step completes that command (log entry 1). -/
def State.withFetchWord (s : State) (nbits w : Nat) : State :=
  { latchCommand (BitVec.ofNat 32 (w % 2 ^ nbits)) s with rst := false, schedule := .block :: s.schedule }

end Sys2Proof.Machine
end

