-- ==== Sys2Proof/Safety.lean ====
section
/-! DEFINITION. What counts as a safe run of CKHB: the state invariants of 10_state R49 with what they rest on, the
transition relation of 43_control R196, the end of a run and its observation (70_reset R262), the HOST's duties
(70_reset R244, R250, R255, R261), and the premise TICK_LIVE (70_reset R263). -/

namespace Sys2Proof.Machine

/-- The channel is owned in these states (10_state R49 a). -/
def Session.ownsChannel : Session → Bool
  | .init => false
  | .synReady => true
  | .synSent => true
  | .ackReady => true
  | .established => false
  | .timedOut => false
  | .aborted => false

/-- A built packet waits for the HOST in these states (10_state R49 b). -/
def Session.offersPacket : Session → Bool
  | .init => false
  | .synReady => true
  | .synSent => false
  | .ackReady => true
  | .established => false
  | .timedOut => false
  | .aborted => false

/-- The latched operands passed issue's range checks (43_control R191). -/
def Latch.inRange (l : Latch) (i : Instr) : Bool :=
  match i with
  | .ckBuf => decide (rangeBase l.range + rangeLen l.range ≤ Config.pktRamBytes)
  | .rxPush => decide (l.rxLen.toNat ≤ Config.rxCap)
  | .matchTest => decide (l.rxLen.toNat ≤ Config.rxCap)
  | .nop => true
  | .ckClr => true
  | .ckAddw _ => true
  | .ckAddb _ => true
  | .ckFin => true
  | .start => true
  | .txOk => true
  | .txFail => true
  | .rxErr => true
  | .srst => true

/-- The states a reset leaves, under any level of the pin: everything but the environment's own fields is at its
reset value (70_reset R240). -/
def State.isReset (s : State) : Prop :=
  s = { State.reset with rst := s.rst, draws := s.draws, schedule := s.schedule }

/-- The invariants of the reachable states (10_state R49), with the observer's record they speak of and the facts
they rest on. -/
structure State.Inv (s : State) : Prop where
  /-- R49 (a). -/
  channel : s.chanOwn = s.session.ownsChannel
  /-- R49 (b). -/
  pending : s.txPend = s.session.offersPacket
  /-- R49 (d): exactly one SYN-ACK was accepted and PEER_SEQ holds its sequence number. -/
  acceptedOne : s.session = .ackReady ∨ s.session = .established → s.history.accepted = [s.peerSeq]
  /-- R171, R178: before an acceptance, and on a timeout, none was accepted. -/
  acceptedNone : s.session = .synReady ∨ s.session = .synSent ∨ s.session = .timedOut →
    s.history.accepted = []
  /-- R171: at most one SYN-ACK is accepted in a session. -/
  acceptedAtMostOne : s.history.accepted.length ≤ 1
  /-- R49 (e): REMAIN is at most the TIMEOUT the SYN's TX_OK latched. -/
  budget : s.remain.toNat ≤ s.history.budget.toNat
  /-- R175: REMAIN ≥ 1 in SYN_SENT. R177 (a): the ticks counted and the ticks left make up the budget. -/
  waiting : s.session = .synSent →
    1 ≤ s.remain.toNat ∧ s.history.ticks + s.remain.toNat = s.history.budget.toNat
  /-- R177 (a): never more ticks than the budget. -/
  ticksBound : s.history.ticks ≤ s.history.budget.toNat
  /-- In INIT no time is left and in SYN_READY none was given yet (43_control R194, 70_reset R240). -/
  noBudget : s.session = .init ∨ s.session = .synReady → s.remain = 0#32
  /-- In SYN_READY no tick has been counted in the session (42_matcher R177 c). -/
  noTicks : s.session = .synReady → s.history.ticks = 0
  /-- R197, R262: the channel was given back as often as it was taken, but for a session holding it. -/
  edges : s.history.chanRises = s.history.chanFalls + s.chanOwn.toNat
  /-- The canonical form of PKT_RAM. -/
  ram : Memory.wf s.ram = true
  /-- R191: the latch of a pending command holds a legal word with operands in range. -/
  latched : s.busy = true → ∃ i, decode s.latch.cmd = .ok i ∧ s.latch.inRange i = true
  /-- R240: while rst is asserted the state is the reset state. -/
  inReset : s.rst = true → s.isReset

/-- The event that a step from `s` runs, if one is scheduled; with none scheduled it is a BLOCK turn. -/
def State.nextEvent (s : State) : Event :=
  match s.schedule with
  | [] => .block
  | e :: _ => e

/-- The state the scheduled event runs on: it has been taken off the schedule. -/
def afterTaking (s : State) : State := { s with schedule := s.schedule.tail }

/-- The rows of the transition relation of STATUS.STATE (43_control R196): which move takes which state to which.
`fin` is the command BLOCK completes, if this step is such a completion. -/
inductive SessionRow (s : State) : Option Instr → Session → Prop where
  /-- START completes in INIT. -/
  | start : s.session = .init → SessionRow s (some .start) .synReady
  /-- TX_OK completes in SYN_READY with a nonzero TIMEOUT. -/
  | txOkWait : s.session = .synReady → s.latch.cfg.timeout ≠ 0#32 → SessionRow s (some .txOk) .synSent
  /-- TX_OK completes in SYN_READY with TIMEOUT 0. -/
  | txOkExpired : s.session = .synReady → s.latch.cfg.timeout = 0#32 → SessionRow s (some .txOk) .timedOut
  /-- TX_FAIL completes in SYN_READY or ACK_READY. -/
  | txFail : s.session = .synReady ∨ s.session = .ackReady → SessionRow s (some .txFail) .aborted
  /-- RX_PUSH completes in SYN_SENT with verdict 1. -/
  | accept (seq : Word) : s.session = .synSent → s.latchedMatch = .ok (some seq) →
      SessionRow s (some .rxPush) .ackReady
  /-- A tick in SYN_SENT with REMAIN = 1. -/
  | expire : s.session = .synSent → s.nextEvent = .tick → s.remain = 1#32 → SessionRow s none .timedOut
  /-- TX_OK completes in ACK_READY. -/
  | txOkEstablish : s.session = .ackReady → SessionRow s (some .txOk) .established
  /-- SRST completes in INIT or a terminal state. -/
  | srst : s.session.idleOrTerminal = true → SessionRow s (some .srst) .init
  /-- Reset, from any state. -/
  | reset (level : Bool) : s.nextEvent = .rst level → (level = true ∨ s.rst = true) → SessionRow s none .init

/-- The command a step from `s` completes: BLOCK's turn, awake, with a command pending (43_control R192). -/
def State.completing (s : State) : Option Instr :=
  if s.busy = true ∧ s.rst = false ∧ s.nextEvent = .block then
    match decode s.latch.cmd with
    | .ok i => some i
    | .error _ => none
  else none

/-- `Match` on `n` bytes of `m` reads offset `o` (42_matcher R162, R163): the first byte of a packet long enough and,
where its header length admits the packet, the ports, sequence, acknowledgment and flags of the TCP header. -/
def matcherReads (m : Memory) (n o : Nat) : Prop :=
  40 ≤ n ∧ (o = 0x040 ∨ ∃ b, Memory.byteAt m 0x040 = some b ∧
    5 ≤ (b.extractLsb' 0 4).toNat ∧ 4 * (b.extractLsb' 0 4).toNat + 20 ≤ n ∧
      ((0x040 + 4 * (b.extractLsb' 0 4).toNat ≤ o ∧ o < 0x040 + 4 * (b.extractLsb' 0 4).toNat + 12) ∨
        o = 0x040 + 4 * (b.extractLsb' 0 4).toNat + 13))

/-- The completion of `i` in `s` reads offset `o` for its operands (70_reset R241): CK_BUF in its range, RX_PUSH in
SYN_SENT and MATCH_TEST as `Match` (40_checksum R107, 42_matcher R170, R173). -/
def commandReads (s : State) (i : Instr) (o : Nat) : Prop :=
  (i = .ckBuf ∧ rangeBase s.latch.range ≤ o ∧ o < rangeBase s.latch.range + rangeLen s.latch.range) ∨
    ((i = .matchTest ∨ (i = .rxPush ∧ s.session = .synSent)) ∧ matcherReads s.ram s.latch.rxLen.toNat o)

/-- A run is over (70_reset R262). -/
def State.runOver (s : State) : Bool := !s.busy && s.session.terminal

/-- What is observed at the end of a run (70_reset R262). -/
structure Observation where
  session : Session
  peerSeq : Word
  lastMatch : Bool
  /-- PKT_RAM[0x000 .. 0x027]. -/
  txBytes : List (Option Byte)
  chanRises : Nat
  chanFalls : Nat
  errP : Bool
  errInfo : Cause
  errCmd : Word
  rxErrCnt : Word
  deriving DecidableEq, Repr

/-- The observation of a state (70_reset R262). -/
def State.observe (s : State) : Observation :=
  { session := s.session, peerSeq := s.peerSeq, lastMatch := s.lastMatch,
    txBytes := (List.range Config.txLen).map fun k => Memory.byteAt s.ram (Config.txBase + k),
    chanRises := s.history.chanRises, chanFalls := s.history.chanFalls, errP := s.errP,
    errInfo := s.errInfo, errCmd := s.errCmd, rxErrCnt := s.rxErrCnt }

/-! ### The HOST's duties (70_reset R261) -/

/-- The PKT_RAM range of a HOST access at `addr`, none for a register or a bus error. -/
def windowRange (addr : Word) (size : AccessSize) : Option (Nat × Nat) :=
  if accessOk addr size && !inRegisters addr then some (windowOffset addr, size.bytes) else none

/-- The PKT_RAM range a move stores to. -/
def Event.storesTo : Event → Option (Nat × Nat)
  | .write addr size _ => windowRange addr size
  | .read _ _ => none
  | .poll _ _ _ => none
  | .tick => none
  | .block => none
  | .rst _ => none

/-- The PKT_RAM range a move reads. -/
def Event.readsFrom : Event → Option (Nat × Nat)
  | .read addr size => windowRange addr size
  | .poll addr _ _ => windowRange addr .word
  | .write _ _ _ => none
  | .tick => none
  | .block => none
  | .rst _ => none

/-- The register a move writes. -/
def Event.writesTo : Event → Option Reg
  | .write addr size _ => if accessOk addr size && inRegisters addr then Reg.atOffset addr.toNat else none
  | .read _ _ => none
  | .poll _ _ _ => none
  | .tick => none
  | .block => none
  | .rst _ => none

/-- The move issues a command word: a 32-bit write to CMD (43_control R190). -/
def Event.issues (e : Event) : Bool := decide (e.writesTo = some .cmd)

/-- The command a move issues, none for any other move and for a word that is no command. -/
def Event.command : Event → Option Instr
  | .write addr size data =>
    if (Event.write addr size data).issues then
      match decode data with
      | .ok i => some i
      | .error _ => none
    else none
  | .read _ _ => none
  | .poll _ _ _ => none
  | .tick => none
  | .block => none
  | .rst _ => none

/-- What the duties need to know of the HOST's moves so far (log entry 23). -/
structure HostRecord where
  /-- The registers written since reset. -/
  written : List Reg
  /-- CTRL was last written before the configuration was complete (70_reset R244, its order). -/
  ctrlEarly : Bool
  /-- The PKT_RAM ranges read since TX_PEND became 1 (70_reset R255). -/
  txRead : List (Nat × Nat)
  deriving DecidableEq, Repr

/-- No move yet. -/
def HostRecord.empty : HostRecord := { written := [], ctrlEarly := false, txRead := [] }

/-- The configuration registers of 70_reset R244, step 1. -/
def configRegs : List Reg := [.clientAddr, .serverAddr, .ports, .seqSyn, .seqAck, .winTtl, .ipId, .timeout]

/-- Every configuration register has been written since reset (70_reset R244, step 1). -/
def HostRecord.configured (r : HostRecord) : Bool := configRegs.all fun c => decide (c ∈ r.written)

/-- The record after the move `e` made in state `s`: reset starts it afresh, and under rst no access counts. -/
def HostRecord.after (r : HostRecord) (s : State) (e : Event) : HostRecord :=
  match e with
  | .rst level => if level || s.rst then HostRecord.empty else r
  | .read _ _ | .write _ _ _ | .poll _ _ _ | .tick | .block =>
    if s.rst then r
    else
      { written := e.writesTo.toList ++ r.written
        ctrlEarly := if e.writesTo = some .ctrl then !r.configured else r.ctrlEarly
        txRead := if s.txPend then e.readsFrom.toList ++ r.txRead else [] }

/-- The duties of the HOST, each a check on one move (70_reset R261). The duty to report a transmission is a promise
about later moves: `hostReports`. -/
inductive Duty where
  /-- Wait for BUSY = 0 between commands (R250). -/
  | waitForIdle
  /-- Never write 0x000-0x027 while TX_PEND = 1 (R255). -/
  | keepTxPacket
  /-- Never write the pending command's footprint (R253). -/
  | keepFootprint
  /-- Program the configuration, then CTRL, and clear the pending bits, before a START in INIT (R244). -/
  | programFirst
  /-- Write the packet's bytes and RX_LEN before RX_PUSH or MATCH_TEST (R256). -/
  | presentFirst
  /-- Read every byte of the waiting packet before TX_OK (R255). -/
  | readBeforeTxOk
  deriving DecidableEq, Repr

/-- Every duty. -/
def Duty.all : List Duty :=
  [.waitForIdle, .keepTxPacket, .keepFootprint, .programFirst, .presentFirst, .readBeforeTxOk]

/-- The bytes of a range (offset, bytes). -/
def rangeOffsets (p : Nat × Nat) : List Nat := (List.range p.2).map (p.1 + ·)

/-- Some range of `l` holds offset `k`. -/
def covered (l : List (Nat × Nat)) (k : Nat) : Bool := l.any fun p => decide (p.1 ≤ k) && decide (k < p.1 + p.2)

/-- The move meets a range: it stores to one of its bytes. -/
def Event.storesInto (e : Event) (p : Nat × Nat) : Bool := e.storesTo.toList.any fun q => rangesMeet q p

/-- The bytes of the packet in the RX region have been written, and RX_LEN with them (70_reset R256). -/
def packetPresented (r : HostRecord) (s : State) : Bool :=
  decide (.rxLen ∈ r.written) &&
    (rangeOffsets (Config.rxBase, s.rxLen.toNat)).all fun k => (Memory.byteAt s.ram k).isSome

/-- The HOST keeps one duty with the move `e` in state `s`. -/
def Duty.keptBy (d : Duty) (r : HostRecord) (s : State) (e : Event) : Bool :=
  match d with
  | .waitForIdle => !(e.issues && s.busy)
  | .keepTxPacket => !(s.txPend && e.storesInto txRange)
  | .keepFootprint =>
    !(s.busy &&
      match decode s.latch.cmd with
      | .ok i => (footprint i s).any fun p => e.storesInto p
      | .error _ => false)
  | .programFirst =>
    if e.command = some .start ∧ s.session = .init then
      r.configured && !r.ctrlEarly && !s.doneP && !s.txreqP && !s.errP
    else true
  | .presentFirst =>
    if e.command = some .rxPush ∨ e.command = some .matchTest then packetPresented r s else true
  | .readBeforeTxOk =>
    if e.command = some .txOk ∧ s.txPend = true then (rangeOffsets txRange).all (covered r.txRead) else true

/-- The HOST keeps every duty with this move; under rst its moves have no effect (70_reset R240). The machine itself
gives a move that breaks a duty the effect the spec states for it (log entry 15). -/
def hostKeepsDuty (r : HostRecord) (s : State) (e : Event) : Bool := s.rst || Duty.all.all fun d => d.keptBy r s e

/-! ### Infinite runs, fairness and the duty to report (70_reset R261, R263) -/

/-- `s` with `e` the one move to come. -/
def State.facing (s : State) (e : Event) : State := { s with schedule := [e] }

/-- An infinite run: move `n` takes state `n` to state `n + 1` (log entry 24). -/
def isRun (moves : Nat → Event) (states : Nat → State) : Prop :=
  ∀ n, step ((states n).facing (moves n)) = .next (states (n + 1))

/-- BLOCK is weakly fair (70_reset R263 a): a command that stays issued gets its turn. -/
def blockFair (moves : Nat → Event) (states : Nat → State) : Prop :=
  ∀ n, ∃ m, n ≤ m ∧ (moves m = .block ∨ (states m).busy = false)

/-- TICK_LIVE (70_reset R263 b): the moves of an infinite run pulse tick_i infinitely often. A premise the platform
must meet, never a fact of the model. -/
def tickLive (moves : Nat → Event) : Prop := ∀ n, ∃ m, n ≤ m ∧ moves m = .tick

/-- The HOST's record before move `n` of a run. -/
def recordBefore (moves : Nat → Event) (states : Nat → State) : Nat → HostRecord
  | 0 => HostRecord.empty
  | n + 1 => (recordBefore moves states n).after (states n) (moves n)

/-- The HOST keeps its duties move by move in a run from reset (70_reset R261). -/
def hostKeepsDuties (moves : Nat → Event) (states : Nat → State) : Prop :=
  ∀ n, hostKeepsDuty (recordBefore moves states n) (states n) (moves n) = true

/-- The duty to report (70_reset R261): while a packet waits, the HOST some time issues TX_OK or TX_FAIL, with BUSY = 0
(R250), unless the packet no longer waits. -/
def hostReports (moves : Nat → Event) (states : Nat → State) : Prop :=
  ∀ n, (states n).txPend = true → ∃ m, n ≤ m ∧
    ((states m).txPend = false ∨
      ((states m).busy = false ∧ ((moves m).command = some .txOk ∨ (moves m).command = some .txFail)))

/-- 70_reset R263 (c), as a statement about one run: a session started from INIT reaches a terminal state, unless the
environment moves rst. Laws/Liveness.lean proves it of every run that meets the premises. -/
def sessionsEnd (moves : Nat → Event) (states : Nat → State) : Prop :=
  ∀ n, (states n).session = .init → (states (n + 1)).session = .synReady →
    ∃ m, n < m ∧ ((states m).session.terminal = true ∨ ∃ level, moves m = .rst level)

/-! ### Runs of the host's interface -/

/-- `n` steps, as the host's interface runs them. -/
def runSteps (n : Nat) (s : State) : Host.Outcome State Fault Refusal := Host.Core.run core n s

end Sys2Proof.Machine
end

