-- ==== Sys2Proof/WellFormed.lean ====
section
/-! DEFINITION. Which 32-bit words are legal command words (30_encoding R82 to R88), said by format and
mask, without decoding: "the legal words are exactly those that match a row of opcode_table.json under its
mask". Four checks: the opcode is assigned, and the must-be-zero bits of its format (N, W, B) are zero. -/

namespace Sys2Proof

/-- The three formats (30_encoding R82 to R84). -/
inductive Format where
  /-- No operand (R82). -/
  | n
  /-- 16-bit word operand (R83). -/
  | w
  /-- Byte operand (R84). -/
  | b
  deriving DecidableEq, Repr

/-- The format of an assigned opcode, none for a reserved one (30_encoding R86, R87). -/
def opcodeFormat (op : Byte) : Option Format :=
  if op = 0x02#8 then some .w
  else if op = 0x03#8 then some .b
  else if op ∈ [0x00#8, 0x01#8, 0x04#8, 0x05#8, 0x10#8, 0x11#8, 0x12#8, 0x20#8, 0x21#8, 0x22#8, 0x30#8]
  then some .n
  else none

/-- The bits a format marks "must be 0" (30_encoding R88). -/
def Format.reservedMask : Format → Word
  | .n => 0xFFFFFF00#32
  | .w => 0x0000FF00#32
  | .b => 0xFF00FF00#32

/-- The word is a legal command word (30_encoding R88). -/
def wellFormedWord (w : Word) : Bool :=
  match opcodeFormat (w.setWidth 8) with
  | none => false
  | some f => w &&& f.reservedMask == 0#32

end Sys2Proof
end

