-- ==== Sys2Proof/Certificates/Slice0/Obligations.lean ====
section
/-! DEFINITION. The statements for the provers, and the few definitions they are written with. Each docstring names
the rule of spec/ it formalises. No statement rests on the value of a free choice, of draws, or of any other field
that is the model's own. -/

namespace Sys2Proof.Claims

open Sys2Proof.Machine

/-- The bytes `p` stand in PKT_RAM from offset `o` on. -/
def holdsAt (m : Memory) (o : Nat) (p : List Byte) : Prop :=
  ∀ k b, p[k]? = some b → Memory.byteAt m (o + k) = some b

/-- The step is one that puts the reset state in place (70_reset R240). -/
def resets (s : State) : Prop := ∃ level, s.nextEvent = .rst level ∧ (level = true ∨ s.rst = true)

/-- The step is the HOST's 32-bit write of `w` to the register `r`. -/
def writesReg (s : State) (r : Reg) (w : Word) : Prop :=
  s.rst = false ∧ s.nextEvent = .write r.offset .word w

/-- The step completes one of these commands. -/
def completesOneOf (s : State) (l : List Instr) : Prop := ∃ i, i ∈ l ∧ s.completing = some i

/-- The step completes a CK_ADDW or a CK_ADDB. -/
def completesAdd (s : State) : Prop :=
  (∃ imm, s.completing = some (.ckAddw imm)) ∨ ∃ imm, s.completing = some (.ckAddb imm)

/-- The step is a tick that counts (42_matcher R175). -/
def ticksInWait (s : State) : Prop :=
  s.rst = false ∧ s.nextEvent = .tick ∧ s.session = .synSent

/-- The opcode ranges 30_encoding R87 lists as reserved. -/
def reservedOpcode (op : Nat) : Prop :=
  (0x06 ≤ op ∧ op ≤ 0x0F) ∨ (0x13 ≤ op ∧ op ≤ 0x1F) ∨ (0x23 ≤ op ∧ op ≤ 0x2F) ∨ (0x31 ≤ op ∧ op ≤ 0xFF)

/-- How 43_control R195 says a state treats a command at completion. -/
inductive Admission where
  | ok
  | err
  | ign
  deriving DecidableEq, Repr

/-- The table of 43_control R195. -/
def admission (i : Instr) (st : Session) : Admission :=
  match i with
  | .nop => .ok
  | .ckClr => .ok
  | .ckAddw _ => .ok
  | .ckAddb _ => .ok
  | .ckFin => .ok
  | .ckBuf => .ok
  | .rxErr => .ok
  | .matchTest => .ok
  | .start => if st = .init then .ok else .err
  | .txOk => if st = .synReady ∨ st = .ackReady then .ok else .err
  | .txFail => if st = .synReady ∨ st = .ackReady then .ok else .err
  | .rxPush => if st = .synSent then .ok else .ign
  | .srst => if st = .synReady ∨ st = .synSent ∨ st = .ackReady then .err else .ok

/-- The bits of a register a HOST write stores, for the RW registers of 10_state R22; none for the others. -/
def rwMask : Reg → Option Word
  | .ctrl => some 0x0000001F#32
  | .ckRange => some 0xFFFFFFFF#32
  | .clientAddr => some 0xFFFFFFFF#32
  | .serverAddr => some 0xFFFFFFFF#32
  | .ports => some 0xFFFFFFFF#32
  | .seqSyn => some 0xFFFFFFFF#32
  | .seqAck => some 0xFFFFFFFF#32
  | .winTtl => some 0x00FFFFFF#32
  | .ipId => some 0x0000FFFF#32
  | .timeout => some 0xFFFFFFFF#32
  | .rxLen => some 0x0000FFFF#32
  | .status => none
  | .cmd => none
  | .errinfo => none
  | .errCmd => none
  | .ckAcc => none
  | .ckResult => none
  | .remain => none
  | .peerSeq => none
  | .rxErrCnt => none

/-- The RO registers of 10_state R22. -/
def readOnlyRegs : List Reg := [.errinfo, .errCmd, .ckAcc, .ckResult, .remain, .peerSeq, .rxErrCnt]

/-- The HOST's configuration registers, CTRL, CK_RANGE and RX_LEN at other values (10_state R46: what the latch
copies at issue). -/
def withHostRegs (s u : State) : State :=
  { s with
    ctrl := u.ctrl, ckRange := u.ckRange, clientAddr := u.clientAddr, serverAddr := u.serverAddr,
    ports := u.ports, seqSyn := u.seqSyn, seqAck := u.seqAck, winTtl := u.winTtl, ipId := u.ipId,
    timeout := u.timeout, rxLen := u.rxLen }

/-- An outcome with the next state changed by `f`. -/
def mapNext (f : State → State) :
    Host.Outcome State Fault Refusal → Host.Outcome State Fault Refusal
  | .next t => .next (f t)
  | .fault r => .fault r
  | .refused r => .refused r

/-- The streaming commands of 40_checksum R110 for a byte sequence, without the CK_CLR and the CK_FIN. -/
def streamAdds : List Byte → List Instr
  | [] => []
  | [b] => [.ckAddb b]
  | b0 :: b1 :: bs => .ckAddw (b0 ++ b1) :: streamAdds bs

/-- Complete a list of commands one after the other. -/
def execAll : List Instr → State → Host.Outcome State Fault Refusal
  | [], s => .next s
  | i :: is, s =>
    match exec i s with
    | .next t => execAll is t
    | .fault r => .fault r
    | .refused r => .refused r

/-- A byte sequence summed as native little-endian words, an odd byte as the low byte of a native word
(40_checksum R111). -/
def leWords : List Byte → List Half
  | [] => []
  | [b] => [0#8 ++ b]
  | b0 :: b1 :: bs => (b1 ++ b0) :: leWords bs

/-- The bytes a little-endian machine stores for a 16-bit value. -/
def leBytes (v : Half) : List Byte := [v.extractLsb' 0 8, v.extractLsb' 8 8]

/-- Big-endian values of a packet's bytes, 0 beyond its end. -/
def be16At (p : List Byte) (o : Nat) : Half := p.getD o 0#8 ++ p.getD (o + 1) 0#8

/-- Big-endian 32-bit value of a packet's bytes, 0 beyond its end. -/
def be32At (p : List Byte) (o : Nat) : Word := be16At p o ++ be16At p (o + 2)

/-- The four criteria and the structural conditions of 42_matcher R162 and R163, on the bytes of the packet. -/
def matchesPacket (cfg : Cfg) (p : List Byte) : Prop :=
  let ihl := ((p.getD 0 0#8).extractLsb' 0 4).toNat
  let t := 4 * ihl
  40 ≤ p.length ∧ 5 ≤ ihl ∧ t + 20 ≤ p.length ∧
    be16At p t = cfg.ports.extractLsb' 16 16 ∧ be16At p (t + 2) = cfg.ports.extractLsb' 0 16 ∧
    (p.getD (t + 13) 0#8).getLsbD 1 = true ∧ (p.getD (t + 13) 0#8).getLsbD 4 = true ∧
    be32At p (t + 8) = cfg.seqSyn + 1#32

/-- The sequence number of a packet, by its own header length (42_matcher R162). -/
def packetSeq (p : List Byte) : Word :=
  be32At p (4 * ((p.getD 0 0#8).extractLsb' 0 4).toNat + 4)

/-- The number on the data lines for bytes at rising offsets: the lowest one in bits [7:0] (20_memory R63), the
others above it. -/
def lanes : List Byte → Nat
  | [] => 0
  | b :: bs => b.toNat + 256 * lanes bs

/-- The address lies in the PKT_RAM window and fits the access width (20_memory R60, R65, R66). -/
def inWindow (a : Word) (size : AccessSize) : Prop :=
  0x1000 ≤ a.toNat ∧ a.toNat ≤ 0x1FFF ∧ a.toNat % size.bytes = 0

/-- Offset `k` lies in the footprint 20_memory R77 gives the command `i`, with the operands the latch holds. (That an
erring START and an ignored RX_PUSH keep theirs is the model's reading, log entry 10.) -/
def footprintHolds (s : State) (i : Instr) (k : Nat) : Prop :=
  (i = .ckBuf ∧ rangeBase s.latch.range ≤ k ∧ k < rangeBase s.latch.range + rangeLen s.latch.range) ∨
    (i = .start ∧ k < 0x28) ∨
    ((i = .rxPush ∨ i = .matchTest) ∧ 0x040 ≤ k ∧ k < 0x040 + s.latch.rxLen.toNat) ∨
    (i = .rxPush ∧ k < 0x28 ∧ s.session = .synSent ∧ ∃ seq, s.latchedMatch = .ok (some seq))

/-- The step is a HOST read at `a` of that width, by itself or as one try of a POLL (30_encoding R92). -/
def hostReads (s : State) (a : Word) (size : AccessSize) : Prop :=
  s.rst = false ∧
    (s.nextEvent = .read a size ∨ (size = .word ∧ ∃ mask value, s.nextEvent = .poll a mask value))

/-- The test configuration of 95_test_vectors with CTRL = 0. -/
def testCfg : Cfg :=
  { csum := 0#2, clientAddr := 0xC0A8010A#32, serverAddr := 0xC0A80114#32, ports := 0x1F903039#32,
    seqSyn := 200#32, seqAck := 600#32, winTtl := 0x4016D0#24, ipId := 0xD431#16, timeout := 5#32 }

end Sys2Proof.Claims

open Sys2Proof Sys2Proof.Machine Sys2Proof.Claims

/-! ## Encoding -/

/-- 30_encoding R86, R104, R105: words written out from the encodings decode to their commands. -/
def Obligations.OpcodeMapWordsDecode : Prop :=
  decode 0x00000000#32 = .ok .nop ∧ decode 0x00000001#32 = .ok .ckClr ∧
    decode 0xF2030002#32 = .ok (.ckAddw 0xF203#16) ∧ decode 0x00030003#32 = .ok (.ckAddb 0x03#8) ∧
    decode 0x00000004#32 = .ok .ckFin ∧ decode 0x00000005#32 = .ok .ckBuf ∧
    decode 0x00000010#32 = .ok .start ∧ decode 0x00000011#32 = .ok .txOk ∧
    decode 0x00000012#32 = .ok .txFail ∧ decode 0x00000020#32 = .ok .rxPush ∧
    decode 0x00000021#32 = .ok .rxErr ∧ decode 0x00000022#32 = .ok .matchTest ∧
    decode 0x00000030#32 = .ok .srst

/-- 30_encoding R82 to R86: every command, with every operand, is the decoding of its word. -/
def Obligations.DecodeOfEncodeIsTheCommand : Prop := ∀ i : Instr, decode (encode i) = .ok i

/-- 30_encoding R88, R89: the decoder accepts exactly the words that are legal under the formats' masks, and a word
it accepts is the encoding of what it decodes to. -/
def Obligations.DecodeAcceptsExactlyLegalWords : Prop :=
  ∀ w : Word, ((∃ i, decode w = .ok i) ↔ wellFormedWord w = true) ∧
    ∀ i, decode w = .ok i → encode i = w

/-- 30_encoding R87: the reserved opcodes, and no others, are rejected as OPCODE, 243 values in all; issuing such a
word records the cause OPCODE and has no other effect. -/
def Obligations.ReservedOpcodeIsRejected : Prop :=
  (∀ w : Word, decode w = .error .opcode ↔ reservedOpcode (w.toNat % 256)) ∧
    ((List.range 256).filter fun op => decode (BitVec.ofNat 32 op) = .error .opcode).length = 243 ∧
    ∀ s w, s.busy = false → reservedOpcode (w.toNat % 256) →
      hostWrite Reg.cmd.offset .word w s =
        { s with bus := .written, errP := true, errInfo := if s.errP then s.errInfo else .opcode,
                 errCmd := if s.errP then s.errCmd else w }

/-! ## Issue, completion and command errors -/

/-- 43_control R191: what a HOST 32-bit write of `w` to CMD does. (The bus response and the emptied record of HOST
writes are the model's, log entries 6 and 10.) -/
def Obligations.IssueChecksThenLatches : Prop :=
  ∀ (s : State) (w : Word),
    (s.busy = true → hostWrite Reg.cmd.offset .word w s = answer .written (cmdError .busy w s)) ∧
    (s.busy = false → decode w = .error .opcode →
      hostWrite Reg.cmd.offset .word w s = answer .written (cmdError .opcode w s)) ∧
    (s.busy = false → decode w = .error .rsvd →
      hostWrite Reg.cmd.offset .word w s = answer .written (cmdError .rsvd w s)) ∧
    (s.busy = false → decode w = .ok .ckBuf →
      4096 < (s.ckRange.extractLsb' 0 16).toNat + (s.ckRange.extractLsb' 16 16).toNat →
      hostWrite Reg.cmd.offset .word w s = answer .written (cmdError .range w s)) ∧
    (s.busy = false → (decode w = .ok .rxPush ∨ decode w = .ok .matchTest) → 4032 < s.rxLen.toNat →
      hostWrite Reg.cmd.offset .word w s = answer .written (cmdError .range w s)) ∧
    ∀ i, s.busy = false → decode w = .ok i →
      (i = .ckBuf → (s.ckRange.extractLsb' 0 16).toNat + (s.ckRange.extractLsb' 16 16).toNat ≤ 4096) →
      (i = .rxPush ∨ i = .matchTest → s.rxLen.toNat ≤ 4032) →
      hostWrite Reg.cmd.offset .word w s =
        { s with
          bus := .written
          busy := true
          hostWrites := []
          latch :=
            { cmd := w, range := s.ckRange, rxLen := s.rxLen
              cfg := { csum := s.ctrl.extractLsb' 3 2, clientAddr := s.clientAddr,
                       serverAddr := s.serverAddr, ports := s.ports, seqSyn := s.seqSyn,
                       seqAck := s.seqAck, winTtl := s.winTtl, ipId := s.ipId, timeout := s.timeout } } }

/-- 60_exceptions R202: the first error since ERR_P was last 0 is captured, a later one only keeps ERR_P set. -/
def Obligations.CommandErrorCapturesTheFirst : Prop :=
  ∀ (c : Cause) (w : Word) (s : State),
    (s.errP = false → cmdError c w s = { s with errInfo := c, errCmd := w, errP := true }) ∧
    (s.errP = true → cmdError c w s = s)

/-- 60_exceptions R203: a CMD write reports one cause, the first that applies of BUSY, OPCODE, RSVD, RANGE, and
then latches nothing, so that no completion follows; one that passes the four checks reports none, and STATE is the
one cause a completion reports. The rule's two examples are clauses. -/
def Obligations.OneCauseByPriority : Prop :=
  (∀ (s : State) (w : Word), s.errP = false →
    let t := hostWrite Reg.cmd.offset .word w s
    (s.busy = true → t.errInfo = .busy) ∧
    (s.busy = false → reservedOpcode (w.toNat % 256) → t.errInfo = .opcode ∧ t.busy = false) ∧
    (s.busy = false → ¬ reservedOpcode (w.toNat % 256) → wellFormedWord w = false →
      t.errInfo = .rsvd ∧ t.busy = false) ∧
    (∀ i, s.busy = false → decode w = .ok i → rangeError i s = true → t.errInfo = .range ∧ t.busy = false) ∧
    (s.busy = true → t.busy = true ∧ t.latch = s.latch) ∧
    (∀ i, s.busy = false → decode w = .ok i → rangeError i s = false →
      t.errP = false ∧ t.errInfo = s.errInfo ∧ t.errCmd = s.errCmd)) ∧
  (∀ (i : Instr) (s t : State), s.errP = false → exec i s = .next t → t.errP = true → t.errInfo = .state) ∧
  (∀ s : State, s.errP = false → s.busy = true →
    (hostWrite Reg.cmd.offset .word 0x00000107#32 s).errInfo = .busy) ∧
  ∀ s : State, s.errP = false → s.busy = false →
    (hostWrite Reg.cmd.offset .word 0x00000110#32 s).errInfo = .rsvd

/-- 43_control R192: BLOCK is enabled if and only if BUSY = 1. Its turn then runs the command's meaning and clears
BUSY (the model's record of HOST writes is cleared with it); with BUSY = 0 its turn changes nothing (log entry
18). -/
def Obligations.StepCompletesTheLatchedCommand : Prop :=
  ∀ s : State, s.rst = false → s.nextEvent = .block →
    (∀ i, s.busy = true → decode s.latch.cmd = .ok i → footprintHazard i s = false →
      step s = mapNext (fun t => { t with busy := false, hostWrites := [] }) (exec i (afterTaking s))) ∧
    (s.busy = false → step s = .next (afterTaking s))

/-- The fetch point (log entry 1): a word placed in the latch as issue places it is the command the very next step
completes, on the state with that latch. -/
def Obligations.PlacedWordRunsNext : Prop :=
  ∀ (s : State) (w : Nat) (i : Instr), decodeTableWord 32 w = some i →
    step (s.withFetchWord 32 w) =
      mapNext (fun t => { t with busy := false, hostWrites := [] })
        (exec i { latchCommand (encode i) s with rst := false })

/-- 43_control R195: the table of what each state admits. `err` records STATE and the word and changes nothing
else; `ign` changes nothing; `ok` raises no error. -/
def Obligations.StateAdmitsCommandsAsTabled : Prop :=
  ∀ (i : Instr) (s : State),
    (admission i s.session = .err → exec i s = .next (cmdError .state s.latch.cmd s)) ∧
    (admission i s.session = .ign → exec i s = .next s) ∧
    (admission i s.session = .ok → ∀ t, exec i s = .next t →
      t.errP = s.errP ∧ t.errInfo = s.errInfo ∧ t.errCmd = s.errCmd)

/-- 60_exceptions R200, R201, R202: a completion that raises ERR_P is a START, TX_OK, TX_FAIL or SRST in a state
that does not admit it, and recording the error is its only effect. -/
def Obligations.ErringCompletionHasNoOtherEffect : Prop :=
  ∀ (i : Instr) (s t : State), exec i s = .next t → s.errP = false → t.errP = true →
    t = { s with errP := true, errInfo := .state, errCmd := s.latch.cmd } ∧
      (i = .start ∨ i = .txOk ∨ i = .txFail ∨ i = .srst)

/-- 70_reset R251, 43_control R191: what the HOST writes to a configuration register, CTRL, CK_RANGE or RX_LEN after
the issue changes no command's completion. -/
def Obligations.LatchedOperandsAreFixed : Prop :=
  ∀ (i : Instr) (s u : State),
    exec i (withHostRegs s u) = mapNext (fun t => withHostRegs t u) (exec i s)

/-! ## The Checksum Engine -/

/-- 40_checksum R101: two folds. -/
def Obligations.FoldIsTwoFolds : Prop :=
  ∀ a : Word,
    let t1 := (a.extractLsb' 16 16).toNat + (a.extractLsb' 0 16).toNat
    t1 ≤ 0x1FFFE ∧ (fold a).toNat = t1 % 65536 + t1 / 65536 ∧ t1 % 65536 + t1 / 65536 < 65536

/-- 40_checksum R102: the sum of the words does not wrap up to 131074 bytes, the checksum is its folded complement,
and zero length gives 0xFFFF. -/
def Obligations.ChecksumIsComplementedFold : Prop :=
  (∀ s : List Byte, s.length ≤ 131074 → (sumOf s).toNat = ((wordsOf s).map BitVec.toNat).sum) ∧
    (∀ s : List Byte, (sumOf s).toNat = ((wordsOf s).map BitVec.toNat).sum % 2 ^ 32 ∧
      checksum s = ~~~(fold (sumOf s))) ∧
    checksum [] = 0xFFFF#16

/-- 40_checksum R108: the fold laws. -/
def Obligations.FoldLaws : Prop :=
  ∀ a : Word,
    ((fold a).toNat % 65535 = a.toNat % 65535) ∧
    (fold a = 0#16 ↔ a = 0#32) ∧
    (fold a = 0xFFFF#16 ↔ a ≠ 0#32 ∧ a.toNat % 65535 = 0) ∧
    (let t1 := a.toNat / 65536 + a.toNat % 65536
     (t1 / 65536 + t1 % 65536) % 65536 = (fold a).toNat) ∧
    ∀ s : List Byte, s.length ≤ 65535 →
      (checksum s = 0xFFFF#16 ↔ ∀ w ∈ wordsOf s, w = 0#16) ∧
      (checksum s = 0#16 ↔ (sumOf s) ≠ 0#32 ∧ (sumOf s).toNat % 65535 = 0)

/-- 40_checksum R109: a checksum inserted into its own zero field at an even offset verifies; at an odd offset the
property fails. -/
def Obligations.InsertedChecksumVerifies : Prop :=
  (∀ (pre post : List Byte), pre.length % 2 = 0 → (pre ++ [0#8, 0#8] ++ post).length ≤ 65535 →
    let c := checksum (pre ++ [0#8, 0#8] ++ post)
    checksum (pre ++ be16Bytes c ++ post) = 0#16 ∧ fold (sumOf (pre ++ be16Bytes c ++ post)) = 0xFFFF#16) ∧
  ∃ (pre post : List Byte), pre.length % 2 = 1 ∧
    checksum (pre ++ be16Bytes (checksum (pre ++ [0#8, 0#8] ++ post)) ++ post) ≠ 0#16

/-- 40_checksum R110: CK_BUF over a byte sequence leaves the same CK_ACC, CK_RESULT and ACC_OVF = 0 as CK_CLR, one
CK_ADDW for each full pair, a CK_ADDB for an odd byte, and CK_FIN. -/
def Obligations.BufferChecksumEqualsStreaming : Prop :=
  ∀ (s : State) (p : List Byte), p.length ≤ 4096 → rangeLen s.latch.range = p.length →
    rangeBase s.latch.range + p.length ≤ 4096 → holdsAt s.ram (rangeBase s.latch.range) p →
    ∃ t u, exec .ckBuf s = .next t ∧
      execAll ([.ckClr] ++ streamAdds p ++ [.ckFin]) s = .next u ∧
      t.ckAcc = u.ckAcc ∧ t.ckResult = u.ckResult ∧ t.accOvf = false ∧ u.accOvf = false

/-- 40_checksum R111: native little-endian summing and storing gives the same two checksum bytes. -/
def Obligations.ChecksumBytesAreOrderIndependent : Prop :=
  ∀ s : List Byte, s.length ≤ 65535 →
    leBytes (~~~(fold (BitVec.ofNat 32 ((leWords s).map BitVec.toNat).sum))) = be16Bytes (checksum s)

/-- 40_checksum R103, R106: CK_CLR clears CK_ACC and ACC_OVF and nothing else; CK_FIN writes the complement of the
twice-folded accumulator to CK_RESULT and changes nothing else; both in every state. -/
def Obligations.CkClrClearsAndCkFinFolds : Prop :=
  ∀ s : State, exec .ckClr s = .next { s with ckAcc := 0#32, accOvf := false } ∧
    ∃ r : Half, exec .ckFin s = .next { s with ckResult := r } ∧
      let t1 := s.ckAcc.toNat / 65536 + s.ckAcc.toNat % 65536
      r.toNat = 65535 - (t1 % 65536 + t1 / 65536)

/-- 40_checksum R104, R105: CK_ADDW adds the zero-extended word and CK_ADDB the byte times 256, mod 2^32; ACC_OVF is
set on a carry out of bit 31 and otherwise left alone; nothing else changes. -/
def Obligations.CkAddAccumulatesWithStickyCarry : Prop :=
  ∀ s : State,
    (∀ imm16 : Half, exec (.ckAddw imm16) s =
      .next { s with
        ckAcc := BitVec.ofNat 32 (s.ckAcc.toNat + imm16.toNat)
        accOvf := if 2 ^ 32 ≤ s.ckAcc.toNat + imm16.toNat then true else s.accOvf }) ∧
    ∀ imm8 : Byte, exec (.ckAddb imm8) s =
      .next { s with
        ckAcc := BitVec.ofNat 32 (s.ckAcc.toNat + 256 * imm8.toNat)
        accOvf := if 2 ^ 32 ≤ s.ckAcc.toNat + 256 * imm8.toNat then true else s.accOvf }

/-- 40_checksum R107: CK_BUF over written bytes of the latched range sets CK_ACC, CK_RESULT and ACC_OVF = 0 and
changes nothing else; over a range with an unwritten byte it faults (70_reset R241). -/
def Obligations.CkBufSumsTheLatchedRange : Prop :=
  ∀ s : State, rangeBase s.latch.range + rangeLen s.latch.range ≤ 4096 →
    (∀ p : List Byte, p.length = rangeLen s.latch.range → holdsAt s.ram (rangeBase s.latch.range) p →
      exec .ckBuf s = .next { s with ckAcc := sumOf p, accOvf := false, ckResult := checksum p }) ∧
    ∀ o, rangeBase s.latch.range ≤ o → o < rangeBase s.latch.range + rangeLen s.latch.range →
      Memory.byteAt s.ram o = none →
      ∃ u, exec .ckBuf s = .fault (.unwrittenByte u) ∧ Memory.byteAt s.ram u = none

/-- 40_checksum R114: the checksum commands are legal in every session state, doing the same in each, and never
change STATE, CHAN_OWN, TX_PEND, REMAIN or PEER_SEQ. -/
def Obligations.ChecksumCommandsLeaveTheSession : Prop :=
  ∀ (i : Instr) (s : State),
    (i ∈ [.ckClr, .ckFin, .ckBuf] ∨ (∃ v, i = .ckAddw v) ∨ ∃ v, i = .ckAddb v) →
    (i ≠ .ckBuf → ∃ t, exec i s = .next t) ∧
    (∀ x : Session, exec i { s with session := x } = mapNext (fun t => { t with session := x }) (exec i s)) ∧
    ∀ t, exec i s = .next t →
      t.session = s.session ∧ t.chanOwn = s.chanOwn ∧ t.txPend = s.txPend ∧ t.remain = s.remain ∧
        t.peerSeq = s.peerSeq ∧ t.errP = s.errP

/-! ## The Header Builder -/

/-- 41_builder R130 to R133, R138, R139, R143: where each field of the built packet stands and what it holds; no
byte outside 0x000-0x027 is written. -/
def Obligations.BuiltPacketHasTheLayout : Prop :=
  ∀ (k : PacketKind) (cfg : Cfg) (peerSeq : Word) (s : State),
    let m := (build k cfg peerSeq s).ram
    Memory.byteAt m 0x00 = some 0x45#8 ∧ Memory.byteAt m 0x01 = some 0x00#8 ∧
    readBE16 m 0x02 = .ok 40#16 ∧ readBE16 m 0x04 = .ok cfg.ipId ∧ readBE16 m 0x06 = .ok 0#16 ∧
    Memory.byteAt m 0x08 = some (cfg.winTtl.extractLsb' 16 8) ∧ Memory.byteAt m 0x09 = some 0x06#8 ∧
    readBE32 m 0x0C = .ok cfg.clientAddr ∧ readBE32 m 0x10 = .ok cfg.serverAddr ∧
    readBE16 m 0x14 = .ok (cfg.ports.extractLsb' 0 16) ∧ readBE16 m 0x16 = .ok (cfg.ports.extractLsb' 16 16) ∧
    readBE32 m 0x18 = .ok (if k = .syn then cfg.seqSyn else cfg.seqAck) ∧
    readBE32 m 0x1C = .ok (if k = .syn then 0#32 else peerSeq + 1#32) ∧
    Memory.byteAt m 0x20 = some 0x50#8 ∧
    Memory.byteAt m 0x21 = some (if k = .syn then 0x02#8 else 0x10#8) ∧
    readBE16 m 0x22 = .ok (cfg.winTtl.extractLsb' 0 16) ∧
    (cfg.csum.getLsbD 0 = false → readBE16 m 0x24 = .ok 0#16) ∧ readBE16 m 0x26 = .ok 0#16 ∧
    ∀ a, 0x28 ≤ a → Memory.byteAt m a = Memory.byteAt s.ram a

/-- 41_builder R133 to R135: `Build` is the rule's own sequence of writes and checksums on PKT_RAM, which never
reads an unwritten byte (70_reset R241). -/
def Obligations.BuildFollowsTheWrittenSequence : Prop :=
  ∀ (k : PacketKind) (cfg : Cfg) (peerSeq : Word) (s : State), Memory.wf s.ram = true →
    buildStepwise k cfg peerSeq s = .ok (build k cfg peerSeq s)

/-- 41_builder R145: a built packet's IP checksum verifies over its span; with span 40 the IP header alone verifies
only if the TCP header's words sum to a multiple of 0xFFFF; for the test SYN the header alone gives 0xB763. -/
def Obligations.BuiltPacketVerifies : Prop :=
  (∀ (k : PacketKind) (cfg : Cfg) (peerSeq : Word) (s : State), ∃ p,
    readBytes (build k cfg peerSeq s).ram 0x000 (if cfg.csum.getLsbD 1 then 20 else 40) = .ok p ∧
      checksum p = 0#16) ∧
  (∀ (k : PacketKind) (cfg : Cfg) (peerSeq : Word) (s : State), cfg.csum.getLsbD 1 = false →
    ∃ ip tcp, readBytes (build k cfg peerSeq s).ram 0x000 20 = .ok ip ∧
      readBytes (build k cfg peerSeq s).ram 0x014 20 = .ok tcp ∧
      (checksum ip = 0#16 ↔ (sumOf tcp).toNat % 65535 = 0)) ∧
  ∃ ip, readBytes (build .syn testCfg 0#32 State.reset).ram 0x000 20 = .ok ip ∧ checksum ip = 0xB763#16

/-- 41_builder R134: with TCP_CSUM_EN the TCP checksum field makes pseudo-header and TCP header verify. -/
def Obligations.TcpChecksumVerifies : Prop :=
  ∀ (k : PacketKind) (cfg : Cfg) (peerSeq : Word) (s : State), cfg.csum.getLsbD 0 = true →
    ∃ tcp, readBytes (build k cfg peerSeq s).ram 0x014 20 = .ok tcp ∧
      checksum (be32Bytes cfg.clientAddr ++ be32Bytes cfg.serverAddr ++ [0x00#8, 0x06#8, 0x00#8, 0x14#8] ++ tcp)
        = 0#16

/-- 41_builder R140: START in INIT takes the channel, builds the SYN and waits for the HOST; it stores to
0x000-0x027 only. (The history fields are the model's own, log entry 13.) -/
def Obligations.StartBuildsTheSyn : Prop :=
  ∀ s : State, s.session = .init →
    exec .start s =
      .next { s with
        chanOwn := true, txPend := true, txreqP := true, session := .synReady
        ram := Memory.putAll s.ram 0 (txPacket .syn s.latch.cfg 0#32)
        ckAcc := sumOf (ipCovered .syn s.latch.cfg 0#32), accOvf := false
        ckResult := checksum (ipCovered .syn s.latch.cfg 0#32)
        history := { s.history with
          chanRises := s.history.chanRises + (!s.chanOwn).toNat
          accepted := [], budget := 0#32, ticks := 0 } } ∧
    ∀ t, exec .start s = .next t → ∀ a, 0x28 ≤ a → Memory.byteAt t.ram a = Memory.byteAt s.ram a

/-- 41_builder R142, R144: TX_OK in SYN_READY starts the deadline, or times out at once if TIMEOUT = 0; in ACK_READY it
establishes; TX_FAIL in either aborts. Entering a terminal state releases the channel and sets DONE_P. Nothing else
changes, no byte of PKT_RAM. (The history fields are the model's own, log entry 13.) -/
def Obligations.TxReportsMoveTheSession : Prop :=
  ∀ s : State,
    (s.session = .synReady → s.latch.cfg.timeout ≠ 0#32 →
      exec .txOk s = .next { s with
        txPend := false, remain := s.latch.cfg.timeout, session := .synSent
        history := { s.history with budget := s.latch.cfg.timeout } }) ∧
    (s.session = .synReady → s.latch.cfg.timeout = 0#32 →
      exec .txOk s = .next { s with
        txPend := false, remain := 0#32, session := .timedOut, chanOwn := false, doneP := true
        history := { s.history with
          budget := 0#32, chanFalls := s.history.chanFalls + s.chanOwn.toNat } }) ∧
    (s.session = .ackReady →
      exec .txOk s = .next { s with
        txPend := false, session := .established, chanOwn := false, doneP := true
        history := { s.history with chanFalls := s.history.chanFalls + s.chanOwn.toNat } }) ∧
    (s.session = .synReady ∨ s.session = .ackReady →
      exec .txFail s = .next { s with
        txPend := false, session := .aborted, chanOwn := false, doneP := true
        history := { s.history with chanFalls := s.history.chanFalls + s.chanOwn.toNat } })

/-! ## The Matcher and the bounded wait -/

/-- 42_matcher R162, R164: on a packet whose bytes are written, the verdict is 1 exactly when the structural
conditions and the four criteria hold, whatever the rest of the packet is, and the sequence number is the
packet's. -/
def Obligations.MatchIsExactlyTheFourCriteria : Prop :=
  ∀ (cfg : Cfg) (m : Memory) (p : List Byte), p.length ≤ 4032 → holdsAt m 0x040 p →
    (matchesPacket cfg p → matchPacket cfg p.length m = .ok (some (packetSeq p))) ∧
    (¬ matchesPacket cfg p → matchPacket cfg p.length m = .ok none)

/-- 42_matcher R163: the three structural rejections give the verdict 0, and no byte outside the first n is read:
memories that agree on the packet give the same verdict. RX_PUSH discards a packet with verdict 0 and goes on
waiting. -/
def Obligations.MalformedPacketsAreRejected : Prop :=
  ∀ (cfg : Cfg) (n : Nat) (m : Memory),
    (n < 40 → matchPacket cfg n m = .ok none) ∧
    (∀ b, 40 ≤ n → Memory.byteAt m 0x040 = some b → (b.extractLsb' 0 4).toNat < 5 →
      matchPacket cfg n m = .ok none) ∧
    (∀ b, 40 ≤ n → Memory.byteAt m 0x040 = some b → n < 4 * (b.extractLsb' 0 4).toNat + 20 →
      matchPacket cfg n m = .ok none) ∧
    (∀ m', (∀ k, k < n → Memory.byteAt m' (0x040 + k) = Memory.byteAt m (0x040 + k)) →
      matchPacket cfg n m' = matchPacket cfg n m) ∧
    ∀ s : State, s.session = .synSent → matchPacket s.latch.cfg s.latch.rxLen.toNat s.ram = .ok none →
      exec .rxPush s = .next { s with lastMatch := false }

/-- 42_matcher R168: RX_PUSH and MATCH_TEST latch RX_LEN at issue; an RX_LEN above 4032 makes them err at issue with
RANGE, in every session state, with no other effect. -/
def Obligations.RxLenAboveCapIsRefusedAtIssue : Prop :=
  ∀ (s : State) (i : Instr), i = .rxPush ∨ i = .matchTest → s.busy = false →
    (s.rxLen.toNat ≤ 4032 →
      (hostWrite Reg.cmd.offset .word (encode i) s).busy = true ∧
        (hostWrite Reg.cmd.offset .word (encode i) s).latch.rxLen = s.rxLen) ∧
    (4032 < s.rxLen.toNat →
      hostWrite Reg.cmd.offset .word (encode i) s =
        { s with bus := .written, errP := true, errInfo := if s.errP then s.errInfo else .range,
                 errCmd := if s.errP then s.errCmd else encode i })

/-- 42_matcher R170: RX_PUSH in SYN_SENT on a packet of written bytes: an accepted one is kept in PEER_SEQ and the
ACK is built into 0x000-0x027; a rejected one changes LAST_MATCH only; outside SYN_SENT nothing changes. (The
history field is the model's own, log entry 13.) -/
def Obligations.RxPushAcceptsRejectsOrIgnores : Prop :=
  (∀ s : State, s.session ≠ .synSent → exec .rxPush s = .next s) ∧
  ∀ (s : State) (p : List Byte), s.session = .synSent → p.length ≤ 4032 →
    s.latch.rxLen.toNat = p.length → holdsAt s.ram 0x040 p →
    (¬ matchesPacket s.latch.cfg p → exec .rxPush s = .next { s with lastMatch := false }) ∧
    (matchesPacket s.latch.cfg p →
      exec .rxPush s = .next { s with
        lastMatch := true, peerSeq := packetSeq p, txPend := true, txreqP := true, session := .ackReady
        ram := Memory.putAll s.ram 0 (txPacket .ack s.latch.cfg (packetSeq p))
        ckAcc := sumOf (ipCovered .ack s.latch.cfg (packetSeq p)), accOvf := false
        ckResult := checksum (ipCovered .ack s.latch.cfg (packetSeq p))
        history := { s.history with accepted := packetSeq p :: s.history.accepted } } ∧
      ∀ t, exec .rxPush s = .next t → ∀ a, 0x28 ≤ a → Memory.byteAt t.ram a = Memory.byteAt s.ram a)

/-- 42_matcher R172: RX_ERR counts up to 0xFFFFFFFF and changes nothing else. -/
def Obligations.RxErrCountsAndSaturates : Prop :=
  ∀ s : State, ∃ c : Word, exec .rxErr s = .next { s with rxErrCnt := c } ∧
    c.toNat = min (s.rxErrCnt.toNat + 1) 0xFFFFFFFF

/-- 42_matcher R173: MATCH_TEST on a packet of written bytes writes the verdict to LAST_MATCH and nothing else, in
every session state. -/
def Obligations.MatchTestWritesTheVerdictOnly : Prop :=
  ∀ (s : State) (p : List Byte), p.length ≤ 4032 → s.latch.rxLen.toNat = p.length → holdsAt s.ram 0x040 p →
    (matchesPacket s.latch.cfg p → exec .matchTest s = .next { s with lastMatch := true }) ∧
    (¬ matchesPacket s.latch.cfg p → exec .matchTest s = .next { s with lastMatch := false })

/-- 42_matcher R175: a tick counts down in SYN_SENT, the last one times the session out, and in every other state
it has no effect. (The history fields are the model's own, log entry 13.) -/
def Obligations.TickCountsDownTheWait : Prop :=
  ∀ s : State, s.rst = false → s.nextEvent = .tick →
    (s.session ≠ .synSent → step s = .next (afterTaking s)) ∧
    (s.session = .synSent → s.remain.toNat = 1 →
      step s = .next { afterTaking s with
        remain := 0#32, session := .timedOut, chanOwn := false, doneP := true
        history := { s.history with
          ticks := s.history.ticks + 1, chanFalls := s.history.chanFalls + s.chanOwn.toNat } }) ∧
    (s.session = .synSent → 1 < s.remain.toNat →
      step s = .next { afterTaking s with
        remain := BitVec.ofNat 32 (s.remain.toNat - 1)
        history := { s.history with ticks := s.history.ticks + 1 } })

/-- 42_matcher R176: a tick and a completion in one cycle: the tick that expires the deadline is applied first, and
the RX_PUSH then ignores the packet. -/
def Obligations.ExpiringTickBeatsTheArrival : Prop :=
  ∀ s : State, s.rst = false → s.schedule = sameCycle → s.session = .synSent → s.remain = 1#32 →
    s.busy = true → s.latch.cmd = 0x00000020#32 → s.hostWrites = [] →
    ∃ t, runSteps 2 s = .next t ∧ t.session = .timedOut ∧ t.busy = false ∧ t.lastMatch = s.lastMatch ∧
      t.peerSeq = s.peerSeq ∧ t.ram = s.ram

/-- 42_matcher R177 (b): no RX_PUSH, MATCH_TEST or RX_ERR changes REMAIN, accepted or not. (The history fields are
the model's own, log entry 13.) -/
def Obligations.ReceiveCommandsKeepTheBudget : Prop :=
  ∀ (i : Instr) (s t : State), i = .rxPush ∨ i = .matchTest ∨ i = .rxErr → exec i s = .next t →
    t.remain = s.remain ∧ t.history.ticks = s.history.ticks ∧ t.history.budget = s.history.budget ∧
      t.chanOwn = s.chanOwn ∧ t.doneP = s.doneP

/-- 42_matcher R177 (a), R178: a session left waiting with no packet times out after exactly REMAIN ticks; before the
last of them it still waits, and nothing is built or accepted meanwhile. -/
def Obligations.WaitTimesOutAfterRemainTicks : Prop :=
  ∀ (n : Nat) (s : State), s.rst = false → s.session = .synSent → 1 ≤ s.remain.toNat → n ≤ s.remain.toNat →
    s.schedule = List.replicate n .tick →
    ∃ t, runSteps n s = .next t ∧ t.ram = s.ram ∧ t.peerSeq = s.peerSeq ∧ t.txPend = s.txPend ∧
      t.remain.toNat = s.remain.toNat - n ∧
      t.session = (if n = s.remain.toNat then .timedOut else .synSent)

/-! ## Session control -/

/-- 43_control R193, R194: NOP changes nothing; SRST in INIT or a terminal state returns to INIT, clears TX_PEND, LAST_MATCH,
REMAIN and PEER_SEQ and changes nothing else; in a running session it errs. -/
def Obligations.NopIsInertAndSrstEndsTheSession : Prop :=
  ∀ s : State,
    exec .nop s = .next s ∧
    (s.session = .init ∨ s.session = .established ∨ s.session = .timedOut ∨ s.session = .aborted →
      exec .srst s = .next { s with
        session := .init, txPend := false, lastMatch := false, remain := 0#32, peerSeq := 0#32 }) ∧
    (s.session = .synReady ∨ s.session = .synSent ∨ s.session = .ackReady →
      exec .srst s = .next (cmdError .state s.latch.cmd s))

/-- 43_control R196: STATUS.STATE changes in a step only by a row of the transition relation. -/
def Obligations.SessionMovesOnlyByTheTransitionRelation : Prop :=
  ∀ s t : State, step s = .next t → t.session ≠ s.session → SessionRow s s.completing t.session

/-- 43_control R197: from an invariant state, a step that enters a terminal state gives the channel back: one
falling edge of chan_own_o, and DONE_P set. (The count of edges is the model's, log entry 13.) -/
def Obligations.TerminalEntryReleasesTheChannelOnce : Prop :=
  ∀ s t : State, State.Inv s → step s = .next t → s.session.terminal = false → t.session.terminal = true →
    s.chanOwn = true ∧ t.chanOwn = false ∧ t.doneP = true ∧
      t.history.chanFalls = s.history.chanFalls + 1 ∧ t.history.chanRises = s.history.chanRises

/-! ## Interrupts and flags -/

/-- 60_exceptions R220: irq_o is the OR of the enabled pending bits, as the HOST reads STATUS and CTRL. -/
def Obligations.IrqIsTheOrOfEnabledPendingBits : Prop :=
  ∀ s : State, s.irq = true ↔
    ((readReg .status s).getLsbD 8 = true ∧ (readReg .ctrl s).getLsbD 0 = true) ∨
    ((readReg .status s).getLsbD 9 = true ∧ (readReg .ctrl s).getLsbD 1 = true) ∨
    ((readReg .status s).getLsbD 10 = true ∧ (readReg .ctrl s).getLsbD 2 = true)

/-- 60_exceptions R222: a completion sets at most one of DONE_P and TXREQ_P, one that errs sets ERR_P only, and a
tick sets DONE_P at most. -/
def Obligations.OneStepSetsAtMostOnePendingBit : Prop :=
  (∀ (i : Instr) (s t : State), exec i s = .next t →
    ((t.doneP = s.doneP ∧ t.txreqP = s.txreqP) ∨ (t.doneP = s.doneP ∧ t.errP = s.errP) ∨
      (t.txreqP = s.txreqP ∧ t.errP = s.errP))) ∧
  ∀ s : State, (tick s).txreqP = s.txreqP ∧ (tick s).errP = s.errP

/-- 10_state R26: what sets and clears each flag of STATUS, over every step of the machine. -/
def Obligations.FlagsChangeOnlyAsTabled : Prop :=
  ∀ s t : State, step s = .next t →
    (t.busy ≠ s.busy → resets s ∨ (t.busy = true ∧ ∃ w, writesReg s .cmd w) ∨
      (t.busy = false ∧ ∃ i, s.completing = some i)) ∧
    (t.txPend ≠ s.txPend → resets s ∨ (t.txPend = true ∧ completesOneOf s [.start, .rxPush]) ∨
      (t.txPend = false ∧ completesOneOf s [.txOk, .txFail, .srst])) ∧
    (t.lastMatch ≠ s.lastMatch → resets s ∨ (t.lastMatch = true ∧ completesOneOf s [.rxPush, .matchTest]) ∨
      (t.lastMatch = false ∧ completesOneOf s [.rxPush, .matchTest, .srst])) ∧
    (t.accOvf ≠ s.accOvf → resets s ∨ (t.accOvf = true ∧ completesAdd s) ∨
      (t.accOvf = false ∧ completesOneOf s [.ckClr, .ckBuf, .start, .rxPush])) ∧
    (t.chanOwn ≠ s.chanOwn → resets s ∨ (t.chanOwn = true ∧ completesOneOf s [.start]) ∨
      (t.chanOwn = false ∧ s.session.terminal = false ∧ t.session.terminal = true)) ∧
    (t.doneP ≠ s.doneP → resets s ∨
      (t.doneP = true ∧ s.session.terminal = false ∧ t.session.terminal = true) ∨
      (t.doneP = false ∧ ∃ w, writesReg s .status w ∧ w.getLsbD 8 = true)) ∧
    (t.txreqP ≠ s.txreqP → resets s ∨ (t.txreqP = true ∧ completesOneOf s [.start, .rxPush]) ∨
      (t.txreqP = false ∧ ∃ w, writesReg s .status w ∧ w.getLsbD 9 = true)) ∧
    (t.errP ≠ s.errP → resets s ∨
      (t.errP = true ∧ ((∃ w, writesReg s .cmd w) ∨ completesOneOf s [.start, .txOk, .txFail, .srst])) ∨
      (t.errP = false ∧ ∃ w, writesReg s .status w ∧ w.getLsbD 10 = true))

/-- 10_state R28, R29, R39, R41 to R44: what writes each read-only register, over every step of the machine. -/
def Obligations.ReadOnlyRegistersChangeOnlyAsNamed : Prop :=
  ∀ s t : State, step s = .next t →
    (t.ckAcc ≠ s.ckAcc → resets s ∨ completesAdd s ∨ completesOneOf s [.ckClr, .ckBuf, .start, .rxPush]) ∧
    (t.ckResult ≠ s.ckResult → resets s ∨ completesOneOf s [.ckFin, .ckBuf, .start, .rxPush]) ∧
    (t.remain ≠ s.remain → resets s ∨ ticksInWait s ∨ completesOneOf s [.txOk, .srst]) ∧
    (t.peerSeq ≠ s.peerSeq → resets s ∨ completesOneOf s [.rxPush, .srst]) ∧
    (t.rxErrCnt ≠ s.rxErrCnt → resets s ∨ completesOneOf s [.rxErr]) ∧
    (t.errInfo ≠ s.errInfo ∨ t.errCmd ≠ s.errCmd → resets s ∨
      (s.errP = false ∧ t.errP = true ∧
        ((∃ w, writesReg s .cmd w) ∨ completesOneOf s [.start, .txOk, .txFail, .srst])))

/-! ## The bus -/

/-- 20_memory R66, 60_exceptions R210: the bus errors, and that one changes no state; a read returns data 0. (The
response pins and the schedule are the model's.) -/
def Obligations.BusErrorChangesNothing : Prop :=
  ∀ (addr : Word) (size : AccessSize),
    (addr.toNat % size.bytes ≠ 0 ∨ (addr.toNat < 0x1000 ∧ size ≠ .word) ∨ 0x1FFF < addr.toNat) →
    ∀ s : State, s.rst = false →
      (s.nextEvent = .read addr size → step s = .next { afterTaking s with bus := .readErr 0#32 }) ∧
      ∀ d, s.nextEvent = .write addr size d → step s = .next { afterTaking s with bus := .writeErr }

/-- 20_memory R68: a HOST read changes nothing but the response on the bus (and the model's count of free draws), and a
32-bit read of a register, by itself (10_state R22), puts what the register reads on the bus and changes nothing
else. -/
def Obligations.ReadsHaveNoSideEffects : Prop :=
  (∀ (s t : State) (addr : Word) (size : AccessSize), s.rst = false → s.nextEvent = .read addr size →
    step s = .next t → t = { afterTaking s with bus := t.bus, draws := t.draws }) ∧
  ∀ (s : State) (r : Reg), s.rst = false → s.nextEvent = .read r.offset .word →
    step s = .next { afterTaking s with bus := .data (readReg r s) }

/-- 10_state R22, R23: an RW register reads back on the bus the last value written to its implemented bits, and the
write changes no other register and no byte of PKT_RAM. -/
def Obligations.RwRegistersReadBack : Prop :=
  ∀ (r : Reg) (mask w : Word) (s : State), rwMask r = some mask → s.rst = false →
    s.nextEvent = .write r.offset .word w →
    ∃ t, step s = .next t ∧ t.bus = .written ∧ readReg r t = w &&& mask ∧
      hostRead r.offset .word t = .next { t with bus := .data (w &&& mask) } ∧
      (∀ r', r' ≠ r → readReg r' t = readReg r' s) ∧ t.ram = s.ram ∧ t.latch = s.latch

/-- 60_exceptions R211, 10_state R27, R48: writes to read-only registers and reserved offsets are ignored, reads of
CMD and of reserved offsets return 0, all without error; and no access but those of R210 gets an error response. -/
def Obligations.SilentAccessesAreLegal : Prop :=
  ∀ s : State, s.rst = false →
    (∀ r ∈ readOnlyRegs, ∀ w, s.nextEvent = .write r.offset .word w →
      step s = .next { afterTaking s with bus := .written }) ∧
    (∀ (a : Word) (w : Word), 0x050 ≤ a.toNat → a.toNat ≤ 0xFFC → a.toNat % 4 = 0 →
      (s.nextEvent = .write a .word w → step s = .next { afterTaking s with bus := .written }) ∧
      (s.nextEvent = .read a .word → step s = .next { afterTaking s with bus := .data 0#32 })) ∧
    (s.nextEvent = .read Reg.cmd.offset .word → step s = .next { afterTaking s with bus := .data 0#32 }) ∧
    ∀ (a : Word) (size : AccessSize), a.toNat % size.bytes = 0 → (a.toNat < 0x1000 → size = .word) →
      a.toNat ≤ 0x1FFF →
      (∀ w, s.nextEvent = .write a size w → ∃ t, step s = .next t ∧ t.bus = .written) ∧
      (s.nextEvent = .read a size → ∀ t, step s = .next t → ∃ d, t.bus = .data d)

/-- 10_state R26: a HOST write to STATUS changes only bits [10:8], and only by W1C. -/
def Obligations.StatusWritesOnlyClearPendingBits : Prop :=
  ∀ (s : State) (w : Word), s.rst = false → s.nextEvent = .write Reg.status.offset .word w →
    step s = .next { afterTaking s with
      bus := .written, doneP := s.doneP && !w.getLsbD 8, txreqP := s.txreqP && !w.getLsbD 9,
      errP := s.errP && !w.getLsbD 10 } ∧
    ∀ t, step s = .next t → readReg .status t = readReg .status s &&& ~~~(w &&& 0x700#32)

/-- 20_memory R63, R65: a window write of any width stores data bits [7:0] at the lowest offset and the next lanes
above it, and changes no other byte and no register; with no command pending a window read of any width returns the
bytes in the same lanes. (That a narrow write takes the low lanes whatever its address, and that a narrow read's upper
data bits are 0, are the model's readings, log entries 8 and 7.) -/
def Obligations.WindowWordIsLittleEndian : Prop :=
  ∀ (s : State) (a : Word) (size : AccessSize), s.rst = false → inWindow a size →
    (∀ d, s.nextEvent = .write a size d →
      ∃ t, step s = .next t ∧ t.bus = .written ∧
        (∀ i, i < size.bytes →
          Memory.byteAt t.ram (a.toNat - 0x1000 + i) = some (d.extractLsb' (8 * i) 8)) ∧
        (∀ o, (o < a.toNat - 0x1000 ∨ a.toNat - 0x1000 + size.bytes ≤ o) →
          Memory.byteAt t.ram o = Memory.byteAt s.ram o) ∧
        (∀ r, readReg r t = readReg r s) ∧
        (t.busy = false → hostRead a size t =
          .next { t with bus := .data (BitVec.ofNat 32 (d.toNat % 2 ^ (8 * size.bytes))) })) ∧
    ∀ bs : List Byte, s.busy = false → s.nextEvent = .read a size → bs.length = size.bytes →
      holdsAt s.ram (a.toNat - 0x1000) bs →
      step s = .next { afterTaking s with bus := .data (BitVec.ofNat 32 (lanes bs)) }

/-- 70_reset R253 (reads): each byte a HOST window read of any width returns is the old byte or, where a pending
command writes it, the new one; a byte the command does not write is read as it is. (Which of two different bytes is
free, and the new one is what the completion would leave on that state: log entry 9. The upper data bits of a narrow
read are 0: log entry 7.) -/
def Obligations.RacingReadIsOldOrNew : Prop :=
  ∀ (s : State) (a : Word) (size : AccessSize) (old : List Byte), s.rst = false → inWindow a size →
    s.nextEvent = .read a size → old.length = size.bytes → holdsAt s.ram (a.toNat - 0x1000) old →
    ∃ (v : List Byte) (t : State), step s = .next t ∧ v.length = size.bytes ∧
      t.bus = .data (BitVec.ofNat 32 (lanes v)) ∧
      ∀ k b, v[k]? = some b → old[k]? = some b ∨
        ∃ i u, s.busy = true ∧ decode s.latch.cmd = .ok i ∧ exec i (afterTaking s) = .next u ∧
          Memory.byteAt u.ram (a.toNat - 0x1000 + k) = some b

/-- 70_reset R253 (writes): a HOST window write while a command is pending is recorded, what is recorded stays recorded
as long as the command is pending, and a recorded write to a byte of the command's footprint makes its completion a
fault, for the ranges 20_memory R77 lists. (The record, and that the footprint is the command word's in any state, are
the model's, log entry 10.) -/
def Obligations.FootprintWriteFaultsTheCompletion : Prop :=
  (∀ (s : State) (a : Word) (size : AccessSize) (d : Word), s.rst = false → s.busy = true → inWindow a size →
    s.nextEvent = .write a size d →
    ∃ t, step s = .next t ∧ t.busy = true ∧ t.latch = s.latch ∧
      (a.toNat - 0x1000, size.bytes) ∈ t.hostWrites ∧ ∀ p ∈ s.hostWrites, p ∈ t.hostWrites) ∧
  (∀ s t : State, step s = .next t → s.busy = true → t.busy = true →
    t.latch = s.latch ∧ ∀ p ∈ s.hostWrites, p ∈ t.hostWrites) ∧
  ∀ (s : State) (i : Instr) (o n : Nat) (k : Nat), s.rst = false → s.nextEvent = .block → s.busy = true →
    decode s.latch.cmd = .ok i → (o, n) ∈ s.hostWrites → o ≤ k → k < o + n → footprintHolds s i k →
    step s = .fault .footprintWritten

/-- 20_memory R77: no command writes outside 0x000-0x027, and only START and an accepting RX_PUSH write there. -/
def Obligations.CommandsWriteOnlyTheTxPacket : Prop :=
  ∀ (i : Instr) (s t : State), exec i s = .next t →
    (∀ a, 0x28 ≤ a → Memory.byteAt t.ram a = Memory.byteAt s.ram a) ∧
    (t.ram ≠ s.ram → (i = .start ∧ s.session = .init) ∨ (i = .rxPush ∧ s.session = .synSent ∧ t.session = .ackReady))

/-- 70_reset R241, R256: a HOST window read of any width, a CK_BUF, an RX_PUSH in SYN_SENT or a MATCH_TEST that reads a
byte not written since reset is a fault, and after reset no byte is written. (Which of several missing bytes the fault
names is the model's choice, log entry 19.) -/
def Obligations.UnwrittenReadFaults : Prop :=
  (∀ (s : State) (a : Word) (size : AccessSize) (k : Nat), hostReads s a size → inWindow a size →
    a.toNat - 0x1000 ≤ k → k < a.toNat - 0x1000 + size.bytes → Memory.byteAt s.ram k = none →
    ∃ o, a.toNat - 0x1000 ≤ o ∧ o < a.toNat - 0x1000 + size.bytes ∧ Memory.byteAt s.ram o = none ∧
      step s = .fault (.unwrittenByte o)) ∧
  (∀ (s : State) (i : Instr) (k : Nat),
    (i = .ckBuf → rangeBase s.latch.range + rangeLen s.latch.range ≤ 4096) →
    (i = .rxPush ∨ i = .matchTest → s.latch.rxLen.toNat ≤ 4032) →
    commandReads s i k → Memory.byteAt s.ram k = none →
    ∃ o, commandReads s i o ∧ Memory.byteAt s.ram o = none ∧ exec i s = .fault (.unwrittenByte o)) ∧
  ∀ o, Memory.byteAt State.reset.ram o = none

/-! ## Reset and the whole machine -/

/-- 70_reset R240, R242: every register reads 0 after reset, STATE is INIT, both output pins are low; asserting rst
in any state puts that state in place, PKT_RAM unwritten, the pending command gone; while rst is asserted no
event but the pin has an effect. (The bus response, the latch's contents and the model's own fields after reset are
its choices, log entries 5, 6, 9, 13 and 14.) -/
def Obligations.ResetRestoresEveryRegister : Prop :=
  (∀ r : Reg, readReg r State.reset = 0#32) ∧ State.reset.session = .init ∧ State.reset.busy = false ∧
    State.reset.irq = false ∧ State.reset.chanOwnPin = false ∧
    (∀ s : State, s.nextEvent = .rst true →
      step s = .next { State.reset with rst := true, draws := s.draws, schedule := s.schedule.tail }) ∧
    (∀ s : State, s.rst = true → s.nextEvent = .rst false →
      step s = .next { State.reset with rst := false, draws := s.draws, schedule := s.schedule.tail }) ∧
    ∀ s : State, s.rst = true → (∀ level, s.nextEvent ≠ .rst level) → step s = .next (afterTaking s)

/-- The reset state meets the invariants (10_state R49). -/
def Obligations.ResetMeetsTheInvariants : Prop := State.Inv State.reset

/-- 10_state R49 with the facts it rests on: every step of every agent keeps the invariants. (The
observer's record they speak of is the model's own, log entry 13.) -/
def Obligations.StepKeepsTheInvariants : Prop :=
  ∀ s t : State, State.Inv s → step s = .next t → State.Inv t

/-- 10_state R49 (a) to (e), as the HOST reads STATUS, in every state reachable from reset by any moves of the agents.
(The acceptances and the budget are read from the observer's record, the model's own, log entry 13.) -/
def Obligations.ReachableStatesKeepTheSessionInvariants : Prop :=
  ∀ (moves : List Event) (n : Nat) (t : State), runSteps n { State.reset with schedule := moves } = .next t →
    let st := (readReg .status t).toNat % 8
    ((readReg .status t).getLsbD 4 = true ↔ st = 1 ∨ st = 2 ∨ st = 3) ∧
    ((readReg .status t).getLsbD 5 = true ↔ st = 1 ∨ st = 3) ∧
    st ≠ 7 ∧
    (st = 3 ∨ st = 4 → t.history.accepted = [t.peerSeq]) ∧
    t.remain.toNat ≤ t.history.budget.toNat

/-- From an invariant state a step never refuses, and stops only where the spec asks a model to: BLOCK completes a
command to a byte of whose footprint the HOST wrote while it was pending (70_reset R253, 20_memory R77), or the HOST or
the command that completes reads a byte not written since reset (70_reset R241). (The record of the HOST's writes is the
model's, log entry 10.) -/
def Obligations.StepStopsOnlyWhereTheSpecAsks : Prop :=
  ∀ s : State, State.Inv s → (∀ r, step s ≠ .refused r) ∧
    ∀ f, step s = .fault f →
      (f = .footprintWritten ∧ ∃ i o n k, s.completing = some i ∧ (o, n) ∈ s.hostWrites ∧ o ≤ k ∧ k < o + n ∧
        footprintHolds s i k) ∨
      ∃ o, f = .unwrittenByte o ∧ o < 4096 ∧ Memory.byteAt s.ram o = none ∧
        ((∃ a size, hostReads s a size ∧ inWindow a size ∧ a.toNat - 0x1000 ≤ o ∧
            o < a.toNat - 0x1000 + size.bytes) ∨
          ∃ i, s.completing = some i ∧ commandReads s i o)
end

