-- ==== Sys2Proof/Laws/Bits.lean ====
section
/-! SUPPORT. Bit fields as arithmetic: what appending, extracting and masking do to the number a bit vector stands
for, and the laws of the command words that follow (30_encoding R82 to R91). -/

namespace Sys2Proof

theorem toNat_append_add {n m : Nat} (x : BitVec n) (y : BitVec m) :
    (x ++ y).toNat = x.toNat * 2 ^ m + y.toNat := by
  rw [BitVec.toNat_append, Nat.shiftLeft_eq, Nat.mul_comm, Nat.two_pow_add_eq_or_of_lt y.isLt]

theorem toNat_extract {n : Nat} (w : BitVec n) (s l : Nat) :
    (w.extractLsb' s l).toNat = w.toNat / 2 ^ s % 2 ^ l := by
  rw [BitVec.extractLsb'_toNat, Nat.shiftRight_eq_div_pow]

theorem opOf_toNat (w : Word) : (opOf w).toNat = w.toNat % 256 := by
  simp [opOf]

theorem encode_ckAddw_toNat (v : Half) : (encode (.ckAddw v)).toNat = v.toNat * 65536 + 2 :=
  toNat_append_add v _

theorem encode_ckAddb_toNat (v : Byte) : (encode (.ckAddb v)).toNat = v.toNat * 65536 + 3 := by
  have h : (0x00#8 ++ v : BitVec 16).toNat = v.toNat := by
    rw [toNat_append_add]; simp
  have := toNat_append_add (0x00#8 ++ v : BitVec 16) (0x00#8 ++ 0x03#8 : BitVec 16)
  rw [h] at this
  exact this

/-- A mask whose set bits are those from `s` on selects nothing exactly when the field is zero. -/
theorem and_mask_eq_zero {M : Word} {P : Nat → Prop} (hM : ∀ i, i < 32 → (M.getLsbD i = true ↔ P i))
    (w : Word) : w &&& M = 0#32 ↔ ∀ i, i < 32 → P i → w.getLsbD i = false := by
  constructor
  · intro h i hi hp
    have := congrArg (fun v => v.getLsbD i) h
    simpa [BitVec.getLsbD_and, (hM i hi).2 hp] using this
  · intro h
    apply BitVec.eq_of_getLsbD_eq
    intro i hi
    by_cases hp : P i
    · simp [h i hi hp]
    · have : M.getLsbD i = false := by
        cases hm : M.getLsbD i with
        | false => rfl
        | true => exact absurd ((hM i hi).1 hm) hp
      simp [this]

/-- A field is zero exactly when its bits are. -/
theorem extract_eq_zero (w : Word) (s l : Nat) (hl : s + l ≤ 32) :
    w.extractLsb' s l = 0#l ↔ ∀ i, i < 32 → (s ≤ i ∧ i < s + l) → w.getLsbD i = false := by
  constructor
  · intro h i _ hi
    have := congrArg (fun v => v.getLsbD (i - s)) h
    simpa [BitVec.getLsbD_extractLsb', show i - s < l by omega, show s + (i - s) = i by omega] using this
  · intro h
    apply BitVec.eq_of_getLsbD_eq
    intro i hi
    simp [hi, h (s + i) (by omega) (by omega)]

theorem maskN_eq_zero (w : Word) : w &&& Format.n.reservedMask = 0#32 ↔ w.extractLsb' 8 24 = 0#24 := by
  rw [extract_eq_zero w 8 24 (by omega),
    and_mask_eq_zero (P := fun i => 8 ≤ i ∧ i < 8 + 24) (by decide) w]

theorem maskW_eq_zero (w : Word) : w &&& Format.w.reservedMask = 0#32 ↔ w.extractLsb' 8 8 = 0#8 := by
  rw [extract_eq_zero w 8 8 (by omega),
    and_mask_eq_zero (P := fun i => 8 ≤ i ∧ i < 8 + 8) (by decide) w]

theorem maskB_eq_zero (w : Word) :
    w &&& Format.b.reservedMask = 0#32 ↔ w.extractLsb' 24 8 = 0#8 ∧ w.extractLsb' 8 8 = 0#8 := by
  rw [extract_eq_zero w 24 8 (by omega), extract_eq_zero w 8 8 (by omega),
    and_mask_eq_zero (P := fun i => (24 ≤ i ∧ i < 24 + 8) ∨ (8 ≤ i ∧ i < 8 + 8)) (by decide) w]
  constructor
  · intro h
    exact ⟨fun i hi hp => h i hi (.inl hp), fun i hi hp => h i hi (.inr hp)⟩
  · rintro ⟨h1, h2⟩ i hi (hp | hp)
    · exact h1 i hi hp
    · exact h2 i hi hp

/-- The opcode of a word, as the checks of WellFormed.lean read it. -/
theorem setWidth_eq_opOf (w : Word) : w.setWidth 8 = opOf w := by
  apply BitVec.eq_of_toNat_eq
  simp [opOf_toNat]

/-- The decoder's format N table and the format of an opcode agree. -/
theorem lookup_opcodesN_isSome : ∀ op : Byte, op ≠ 0x02#8 → op ≠ 0x03#8 →
    ((opcodesN.lookup op).isSome = true ↔ opcodeFormat op = some .n) := by decide

theorem opcodeFormat_none_iff : ∀ op : Byte, op ≠ 0x02#8 → op ≠ 0x03#8 →
    (opcodesN.lookup op = none ↔ opcodeFormat op = none) := by decide

/-- A field is zero exactly when its number is. -/
theorem extract_eq_zero_iff_toNat (w : Word) (s l : Nat) :
    w.extractLsb' s l = 0#l ↔ w.toNat / 2 ^ s % 2 ^ l = 0 := by
  constructor
  · intro h; rw [← toNat_extract, h]; simp
  · intro h; apply BitVec.eq_of_toNat_eq; rw [toNat_extract, h]; simp

/-- The word of a format N command is its opcode. -/
theorem encode_toNat_of_lookup (op : Byte) (i : Instr) (h : opcodesN.lookup op = some i) :
    (encode i).toNat = op.toNat := by
  have all : ∀ op : Byte, ((opcodesN.lookup op).map fun i => (encode i).toNat).getD op.toNat = op.toNat := by
    decide
  have := all op
  rw [h] at this
  simpa using this

/-- The decoder names the cause OPCODE exactly for an opcode without a format (30_encoding R87). -/
theorem decode_opcode_iff (w : Word) : decode w = .error .opcode ↔ opcodeFormat (opOf w) = none := by
  by_cases h2 : opOf w = 0x02#8
  · unfold decode; rw [if_pos h2, h2]; unfold decodeW; split <;> simp [opcodeFormat]
  · by_cases h3 : opOf w = 0x03#8
    · unfold decode; rw [if_neg h2, if_pos h3, h3]; unfold decodeB; split <;> simp [opcodeFormat]
    · rw [← opcodeFormat_none_iff _ h2 h3]
      unfold decode; rw [if_neg h2, if_neg h3]
      cases hk : opcodesN.lookup (opOf w) with
      | none => simp
      | some j => simp [decodeN]; split <;> simp

end Sys2Proof
end

