-- ==== Sys2Proof/Laws/State.lean ====
section
/-! SUPPORT. One lemma per field per named state update, each true by rfl (but for the terminal entry's history),
so that no later proof unfolds a record update. -/

namespace Sys2Proof.Machine

variable (s : State)
/-! ### cmdError -/
@[simp] theorem cmdError_ctrl (c : Cause) (w : Word) : (cmdError c w s).ctrl = s.ctrl := rfl
@[simp] theorem cmdError_session (c : Cause) (w : Word) : (cmdError c w s).session = s.session := rfl
@[simp] theorem cmdError_busy (c : Cause) (w : Word) : (cmdError c w s).busy = s.busy := rfl
@[simp] theorem cmdError_chanOwn (c : Cause) (w : Word) : (cmdError c w s).chanOwn = s.chanOwn := rfl
@[simp] theorem cmdError_txPend (c : Cause) (w : Word) : (cmdError c w s).txPend = s.txPend := rfl
@[simp] theorem cmdError_lastMatch (c : Cause) (w : Word) : (cmdError c w s).lastMatch = s.lastMatch := rfl
@[simp] theorem cmdError_accOvf (c : Cause) (w : Word) : (cmdError c w s).accOvf = s.accOvf := rfl
@[simp] theorem cmdError_doneP (c : Cause) (w : Word) : (cmdError c w s).doneP = s.doneP := rfl
@[simp] theorem cmdError_txreqP (c : Cause) (w : Word) : (cmdError c w s).txreqP = s.txreqP := rfl
@[simp] theorem cmdError_errP (c : Cause) (w : Word) : (cmdError c w s).errP = true := rfl
@[simp] theorem cmdError_errInfo (c : Cause) (w : Word) : (cmdError c w s).errInfo = if s.errP then s.errInfo else c := rfl
@[simp] theorem cmdError_errCmd (c : Cause) (w : Word) : (cmdError c w s).errCmd = if s.errP then s.errCmd else w := rfl
@[simp] theorem cmdError_ckRange (c : Cause) (w : Word) : (cmdError c w s).ckRange = s.ckRange := rfl
@[simp] theorem cmdError_ckAcc (c : Cause) (w : Word) : (cmdError c w s).ckAcc = s.ckAcc := rfl
@[simp] theorem cmdError_ckResult (c : Cause) (w : Word) : (cmdError c w s).ckResult = s.ckResult := rfl
@[simp] theorem cmdError_clientAddr (c : Cause) (w : Word) : (cmdError c w s).clientAddr = s.clientAddr := rfl
@[simp] theorem cmdError_serverAddr (c : Cause) (w : Word) : (cmdError c w s).serverAddr = s.serverAddr := rfl
@[simp] theorem cmdError_ports (c : Cause) (w : Word) : (cmdError c w s).ports = s.ports := rfl
@[simp] theorem cmdError_seqSyn (c : Cause) (w : Word) : (cmdError c w s).seqSyn = s.seqSyn := rfl
@[simp] theorem cmdError_seqAck (c : Cause) (w : Word) : (cmdError c w s).seqAck = s.seqAck := rfl
@[simp] theorem cmdError_winTtl (c : Cause) (w : Word) : (cmdError c w s).winTtl = s.winTtl := rfl
@[simp] theorem cmdError_ipId (c : Cause) (w : Word) : (cmdError c w s).ipId = s.ipId := rfl
@[simp] theorem cmdError_timeout (c : Cause) (w : Word) : (cmdError c w s).timeout = s.timeout := rfl
@[simp] theorem cmdError_remain (c : Cause) (w : Word) : (cmdError c w s).remain = s.remain := rfl
@[simp] theorem cmdError_rxLen (c : Cause) (w : Word) : (cmdError c w s).rxLen = s.rxLen := rfl
@[simp] theorem cmdError_peerSeq (c : Cause) (w : Word) : (cmdError c w s).peerSeq = s.peerSeq := rfl
@[simp] theorem cmdError_rxErrCnt (c : Cause) (w : Word) : (cmdError c w s).rxErrCnt = s.rxErrCnt := rfl
@[simp] theorem cmdError_ram (c : Cause) (w : Word) : (cmdError c w s).ram = s.ram := rfl
@[simp] theorem cmdError_latch (c : Cause) (w : Word) : (cmdError c w s).latch = s.latch := rfl
@[simp] theorem cmdError_rst (c : Cause) (w : Word) : (cmdError c w s).rst = s.rst := rfl
@[simp] theorem cmdError_bus (c : Cause) (w : Word) : (cmdError c w s).bus = s.bus := rfl
@[simp] theorem cmdError_hostWrites (c : Cause) (w : Word) : (cmdError c w s).hostWrites = s.hostWrites := rfl
@[simp] theorem cmdError_draws (c : Cause) (w : Word) : (cmdError c w s).draws = s.draws := rfl
@[simp] theorem cmdError_history (c : Cause) (w : Word) : (cmdError c w s).history = s.history := rfl
@[simp] theorem cmdError_schedule (c : Cause) (w : Word) : (cmdError c w s).schedule = s.schedule := rfl
/-! ### setChanOwn -/
@[simp] theorem setChanOwn_ctrl (level : Bool) : (setChanOwn level s).ctrl = s.ctrl := rfl
@[simp] theorem setChanOwn_session (level : Bool) : (setChanOwn level s).session = s.session := rfl
@[simp] theorem setChanOwn_busy (level : Bool) : (setChanOwn level s).busy = s.busy := rfl
@[simp] theorem setChanOwn_chanOwn (level : Bool) : (setChanOwn level s).chanOwn = level := rfl
@[simp] theorem setChanOwn_txPend (level : Bool) : (setChanOwn level s).txPend = s.txPend := rfl
@[simp] theorem setChanOwn_lastMatch (level : Bool) : (setChanOwn level s).lastMatch = s.lastMatch := rfl
@[simp] theorem setChanOwn_accOvf (level : Bool) : (setChanOwn level s).accOvf = s.accOvf := rfl
@[simp] theorem setChanOwn_doneP (level : Bool) : (setChanOwn level s).doneP = s.doneP := rfl
@[simp] theorem setChanOwn_txreqP (level : Bool) : (setChanOwn level s).txreqP = s.txreqP := rfl
@[simp] theorem setChanOwn_errP (level : Bool) : (setChanOwn level s).errP = s.errP := rfl
@[simp] theorem setChanOwn_errInfo (level : Bool) : (setChanOwn level s).errInfo = s.errInfo := rfl
@[simp] theorem setChanOwn_errCmd (level : Bool) : (setChanOwn level s).errCmd = s.errCmd := rfl
@[simp] theorem setChanOwn_ckRange (level : Bool) : (setChanOwn level s).ckRange = s.ckRange := rfl
@[simp] theorem setChanOwn_ckAcc (level : Bool) : (setChanOwn level s).ckAcc = s.ckAcc := rfl
@[simp] theorem setChanOwn_ckResult (level : Bool) : (setChanOwn level s).ckResult = s.ckResult := rfl
@[simp] theorem setChanOwn_clientAddr (level : Bool) : (setChanOwn level s).clientAddr = s.clientAddr := rfl
@[simp] theorem setChanOwn_serverAddr (level : Bool) : (setChanOwn level s).serverAddr = s.serverAddr := rfl
@[simp] theorem setChanOwn_ports (level : Bool) : (setChanOwn level s).ports = s.ports := rfl
@[simp] theorem setChanOwn_seqSyn (level : Bool) : (setChanOwn level s).seqSyn = s.seqSyn := rfl
@[simp] theorem setChanOwn_seqAck (level : Bool) : (setChanOwn level s).seqAck = s.seqAck := rfl
@[simp] theorem setChanOwn_winTtl (level : Bool) : (setChanOwn level s).winTtl = s.winTtl := rfl
@[simp] theorem setChanOwn_ipId (level : Bool) : (setChanOwn level s).ipId = s.ipId := rfl
@[simp] theorem setChanOwn_timeout (level : Bool) : (setChanOwn level s).timeout = s.timeout := rfl
@[simp] theorem setChanOwn_remain (level : Bool) : (setChanOwn level s).remain = s.remain := rfl
@[simp] theorem setChanOwn_rxLen (level : Bool) : (setChanOwn level s).rxLen = s.rxLen := rfl
@[simp] theorem setChanOwn_peerSeq (level : Bool) : (setChanOwn level s).peerSeq = s.peerSeq := rfl
@[simp] theorem setChanOwn_rxErrCnt (level : Bool) : (setChanOwn level s).rxErrCnt = s.rxErrCnt := rfl
@[simp] theorem setChanOwn_ram (level : Bool) : (setChanOwn level s).ram = s.ram := rfl
@[simp] theorem setChanOwn_latch (level : Bool) : (setChanOwn level s).latch = s.latch := rfl
@[simp] theorem setChanOwn_rst (level : Bool) : (setChanOwn level s).rst = s.rst := rfl
@[simp] theorem setChanOwn_bus (level : Bool) : (setChanOwn level s).bus = s.bus := rfl
@[simp] theorem setChanOwn_hostWrites (level : Bool) : (setChanOwn level s).hostWrites = s.hostWrites := rfl
@[simp] theorem setChanOwn_draws (level : Bool) : (setChanOwn level s).draws = s.draws := rfl
@[simp] theorem setChanOwn_history (level : Bool) : (setChanOwn level s).history = { s.history with
      chanRises := s.history.chanRises + (level && !s.chanOwn).toNat
      chanFalls := s.history.chanFalls + (!level && s.chanOwn).toNat } := rfl
@[simp] theorem setChanOwn_schedule (level : Bool) : (setChanOwn level s).schedule = s.schedule := rfl
/-! ### enterTerminal -/
@[simp] theorem enterTerminal_ctrl (st : Session) : (enterTerminal st s).ctrl = s.ctrl := rfl
@[simp] theorem enterTerminal_session (st : Session) : (enterTerminal st s).session = st := rfl
@[simp] theorem enterTerminal_busy (st : Session) : (enterTerminal st s).busy = s.busy := rfl
@[simp] theorem enterTerminal_chanOwn (st : Session) : (enterTerminal st s).chanOwn = false := rfl
@[simp] theorem enterTerminal_txPend (st : Session) : (enterTerminal st s).txPend = s.txPend := rfl
@[simp] theorem enterTerminal_lastMatch (st : Session) : (enterTerminal st s).lastMatch = s.lastMatch := rfl
@[simp] theorem enterTerminal_accOvf (st : Session) : (enterTerminal st s).accOvf = s.accOvf := rfl
@[simp] theorem enterTerminal_doneP (st : Session) : (enterTerminal st s).doneP = true := rfl
@[simp] theorem enterTerminal_txreqP (st : Session) : (enterTerminal st s).txreqP = s.txreqP := rfl
@[simp] theorem enterTerminal_errP (st : Session) : (enterTerminal st s).errP = s.errP := rfl
@[simp] theorem enterTerminal_errInfo (st : Session) : (enterTerminal st s).errInfo = s.errInfo := rfl
@[simp] theorem enterTerminal_errCmd (st : Session) : (enterTerminal st s).errCmd = s.errCmd := rfl
@[simp] theorem enterTerminal_ckRange (st : Session) : (enterTerminal st s).ckRange = s.ckRange := rfl
@[simp] theorem enterTerminal_ckAcc (st : Session) : (enterTerminal st s).ckAcc = s.ckAcc := rfl
@[simp] theorem enterTerminal_ckResult (st : Session) : (enterTerminal st s).ckResult = s.ckResult := rfl
@[simp] theorem enterTerminal_clientAddr (st : Session) : (enterTerminal st s).clientAddr = s.clientAddr := rfl
@[simp] theorem enterTerminal_serverAddr (st : Session) : (enterTerminal st s).serverAddr = s.serverAddr := rfl
@[simp] theorem enterTerminal_ports (st : Session) : (enterTerminal st s).ports = s.ports := rfl
@[simp] theorem enterTerminal_seqSyn (st : Session) : (enterTerminal st s).seqSyn = s.seqSyn := rfl
@[simp] theorem enterTerminal_seqAck (st : Session) : (enterTerminal st s).seqAck = s.seqAck := rfl
@[simp] theorem enterTerminal_winTtl (st : Session) : (enterTerminal st s).winTtl = s.winTtl := rfl
@[simp] theorem enterTerminal_ipId (st : Session) : (enterTerminal st s).ipId = s.ipId := rfl
@[simp] theorem enterTerminal_timeout (st : Session) : (enterTerminal st s).timeout = s.timeout := rfl
@[simp] theorem enterTerminal_remain (st : Session) : (enterTerminal st s).remain = s.remain := rfl
@[simp] theorem enterTerminal_rxLen (st : Session) : (enterTerminal st s).rxLen = s.rxLen := rfl
@[simp] theorem enterTerminal_peerSeq (st : Session) : (enterTerminal st s).peerSeq = s.peerSeq := rfl
@[simp] theorem enterTerminal_rxErrCnt (st : Session) : (enterTerminal st s).rxErrCnt = s.rxErrCnt := rfl
@[simp] theorem enterTerminal_ram (st : Session) : (enterTerminal st s).ram = s.ram := rfl
@[simp] theorem enterTerminal_latch (st : Session) : (enterTerminal st s).latch = s.latch := rfl
@[simp] theorem enterTerminal_rst (st : Session) : (enterTerminal st s).rst = s.rst := rfl
@[simp] theorem enterTerminal_bus (st : Session) : (enterTerminal st s).bus = s.bus := rfl
@[simp] theorem enterTerminal_hostWrites (st : Session) : (enterTerminal st s).hostWrites = s.hostWrites := rfl
@[simp] theorem enterTerminal_draws (st : Session) : (enterTerminal st s).draws = s.draws := rfl
@[simp] theorem enterTerminal_history (st : Session) : (enterTerminal st s).history = { s.history with
      chanFalls := s.history.chanFalls + s.chanOwn.toNat } := by
  simp [enterTerminal, setChanOwn]
@[simp] theorem enterTerminal_schedule (st : Session) : (enterTerminal st s).schedule = s.schedule := rfl
/-! ### offerPacket -/
@[simp] theorem offerPacket_ctrl (st : Session) : (offerPacket st s).ctrl = s.ctrl := rfl
@[simp] theorem offerPacket_session (st : Session) : (offerPacket st s).session = st := rfl
@[simp] theorem offerPacket_busy (st : Session) : (offerPacket st s).busy = s.busy := rfl
@[simp] theorem offerPacket_chanOwn (st : Session) : (offerPacket st s).chanOwn = s.chanOwn := rfl
@[simp] theorem offerPacket_txPend (st : Session) : (offerPacket st s).txPend = true := rfl
@[simp] theorem offerPacket_lastMatch (st : Session) : (offerPacket st s).lastMatch = s.lastMatch := rfl
@[simp] theorem offerPacket_accOvf (st : Session) : (offerPacket st s).accOvf = s.accOvf := rfl
@[simp] theorem offerPacket_doneP (st : Session) : (offerPacket st s).doneP = s.doneP := rfl
@[simp] theorem offerPacket_txreqP (st : Session) : (offerPacket st s).txreqP = true := rfl
@[simp] theorem offerPacket_errP (st : Session) : (offerPacket st s).errP = s.errP := rfl
@[simp] theorem offerPacket_errInfo (st : Session) : (offerPacket st s).errInfo = s.errInfo := rfl
@[simp] theorem offerPacket_errCmd (st : Session) : (offerPacket st s).errCmd = s.errCmd := rfl
@[simp] theorem offerPacket_ckRange (st : Session) : (offerPacket st s).ckRange = s.ckRange := rfl
@[simp] theorem offerPacket_ckAcc (st : Session) : (offerPacket st s).ckAcc = s.ckAcc := rfl
@[simp] theorem offerPacket_ckResult (st : Session) : (offerPacket st s).ckResult = s.ckResult := rfl
@[simp] theorem offerPacket_clientAddr (st : Session) : (offerPacket st s).clientAddr = s.clientAddr := rfl
@[simp] theorem offerPacket_serverAddr (st : Session) : (offerPacket st s).serverAddr = s.serverAddr := rfl
@[simp] theorem offerPacket_ports (st : Session) : (offerPacket st s).ports = s.ports := rfl
@[simp] theorem offerPacket_seqSyn (st : Session) : (offerPacket st s).seqSyn = s.seqSyn := rfl
@[simp] theorem offerPacket_seqAck (st : Session) : (offerPacket st s).seqAck = s.seqAck := rfl
@[simp] theorem offerPacket_winTtl (st : Session) : (offerPacket st s).winTtl = s.winTtl := rfl
@[simp] theorem offerPacket_ipId (st : Session) : (offerPacket st s).ipId = s.ipId := rfl
@[simp] theorem offerPacket_timeout (st : Session) : (offerPacket st s).timeout = s.timeout := rfl
@[simp] theorem offerPacket_remain (st : Session) : (offerPacket st s).remain = s.remain := rfl
@[simp] theorem offerPacket_rxLen (st : Session) : (offerPacket st s).rxLen = s.rxLen := rfl
@[simp] theorem offerPacket_peerSeq (st : Session) : (offerPacket st s).peerSeq = s.peerSeq := rfl
@[simp] theorem offerPacket_rxErrCnt (st : Session) : (offerPacket st s).rxErrCnt = s.rxErrCnt := rfl
@[simp] theorem offerPacket_ram (st : Session) : (offerPacket st s).ram = s.ram := rfl
@[simp] theorem offerPacket_latch (st : Session) : (offerPacket st s).latch = s.latch := rfl
@[simp] theorem offerPacket_rst (st : Session) : (offerPacket st s).rst = s.rst := rfl
@[simp] theorem offerPacket_bus (st : Session) : (offerPacket st s).bus = s.bus := rfl
@[simp] theorem offerPacket_hostWrites (st : Session) : (offerPacket st s).hostWrites = s.hostWrites := rfl
@[simp] theorem offerPacket_draws (st : Session) : (offerPacket st s).draws = s.draws := rfl
@[simp] theorem offerPacket_history (st : Session) : (offerPacket st s).history = s.history := rfl
@[simp] theorem offerPacket_schedule (st : Session) : (offerPacket st s).schedule = s.schedule := rfl
/-! ### openSession -/
@[simp] theorem openSession_ctrl : (openSession s).ctrl = s.ctrl := rfl
@[simp] theorem openSession_session : (openSession s).session = s.session := rfl
@[simp] theorem openSession_busy : (openSession s).busy = s.busy := rfl
@[simp] theorem openSession_chanOwn : (openSession s).chanOwn = s.chanOwn := rfl
@[simp] theorem openSession_txPend : (openSession s).txPend = s.txPend := rfl
@[simp] theorem openSession_lastMatch : (openSession s).lastMatch = s.lastMatch := rfl
@[simp] theorem openSession_accOvf : (openSession s).accOvf = s.accOvf := rfl
@[simp] theorem openSession_doneP : (openSession s).doneP = s.doneP := rfl
@[simp] theorem openSession_txreqP : (openSession s).txreqP = s.txreqP := rfl
@[simp] theorem openSession_errP : (openSession s).errP = s.errP := rfl
@[simp] theorem openSession_errInfo : (openSession s).errInfo = s.errInfo := rfl
@[simp] theorem openSession_errCmd : (openSession s).errCmd = s.errCmd := rfl
@[simp] theorem openSession_ckRange : (openSession s).ckRange = s.ckRange := rfl
@[simp] theorem openSession_ckAcc : (openSession s).ckAcc = s.ckAcc := rfl
@[simp] theorem openSession_ckResult : (openSession s).ckResult = s.ckResult := rfl
@[simp] theorem openSession_clientAddr : (openSession s).clientAddr = s.clientAddr := rfl
@[simp] theorem openSession_serverAddr : (openSession s).serverAddr = s.serverAddr := rfl
@[simp] theorem openSession_ports : (openSession s).ports = s.ports := rfl
@[simp] theorem openSession_seqSyn : (openSession s).seqSyn = s.seqSyn := rfl
@[simp] theorem openSession_seqAck : (openSession s).seqAck = s.seqAck := rfl
@[simp] theorem openSession_winTtl : (openSession s).winTtl = s.winTtl := rfl
@[simp] theorem openSession_ipId : (openSession s).ipId = s.ipId := rfl
@[simp] theorem openSession_timeout : (openSession s).timeout = s.timeout := rfl
@[simp] theorem openSession_remain : (openSession s).remain = s.remain := rfl
@[simp] theorem openSession_rxLen : (openSession s).rxLen = s.rxLen := rfl
@[simp] theorem openSession_peerSeq : (openSession s).peerSeq = s.peerSeq := rfl
@[simp] theorem openSession_rxErrCnt : (openSession s).rxErrCnt = s.rxErrCnt := rfl
@[simp] theorem openSession_ram : (openSession s).ram = s.ram := rfl
@[simp] theorem openSession_latch : (openSession s).latch = s.latch := rfl
@[simp] theorem openSession_rst : (openSession s).rst = s.rst := rfl
@[simp] theorem openSession_bus : (openSession s).bus = s.bus := rfl
@[simp] theorem openSession_hostWrites : (openSession s).hostWrites = s.hostWrites := rfl
@[simp] theorem openSession_draws : (openSession s).draws = s.draws := rfl
@[simp] theorem openSession_history : (openSession s).history = { s.history with accepted := [], budget := 0#32, ticks := 0 } := rfl
@[simp] theorem openSession_schedule : (openSession s).schedule = s.schedule := rfl
/-! ### latchCommand -/
@[simp] theorem latchCommand_ctrl (w : Word) : (latchCommand w s).ctrl = s.ctrl := rfl
@[simp] theorem latchCommand_session (w : Word) : (latchCommand w s).session = s.session := rfl
@[simp] theorem latchCommand_busy (w : Word) : (latchCommand w s).busy = true := rfl
@[simp] theorem latchCommand_chanOwn (w : Word) : (latchCommand w s).chanOwn = s.chanOwn := rfl
@[simp] theorem latchCommand_txPend (w : Word) : (latchCommand w s).txPend = s.txPend := rfl
@[simp] theorem latchCommand_lastMatch (w : Word) : (latchCommand w s).lastMatch = s.lastMatch := rfl
@[simp] theorem latchCommand_accOvf (w : Word) : (latchCommand w s).accOvf = s.accOvf := rfl
@[simp] theorem latchCommand_doneP (w : Word) : (latchCommand w s).doneP = s.doneP := rfl
@[simp] theorem latchCommand_txreqP (w : Word) : (latchCommand w s).txreqP = s.txreqP := rfl
@[simp] theorem latchCommand_errP (w : Word) : (latchCommand w s).errP = s.errP := rfl
@[simp] theorem latchCommand_errInfo (w : Word) : (latchCommand w s).errInfo = s.errInfo := rfl
@[simp] theorem latchCommand_errCmd (w : Word) : (latchCommand w s).errCmd = s.errCmd := rfl
@[simp] theorem latchCommand_ckRange (w : Word) : (latchCommand w s).ckRange = s.ckRange := rfl
@[simp] theorem latchCommand_ckAcc (w : Word) : (latchCommand w s).ckAcc = s.ckAcc := rfl
@[simp] theorem latchCommand_ckResult (w : Word) : (latchCommand w s).ckResult = s.ckResult := rfl
@[simp] theorem latchCommand_clientAddr (w : Word) : (latchCommand w s).clientAddr = s.clientAddr := rfl
@[simp] theorem latchCommand_serverAddr (w : Word) : (latchCommand w s).serverAddr = s.serverAddr := rfl
@[simp] theorem latchCommand_ports (w : Word) : (latchCommand w s).ports = s.ports := rfl
@[simp] theorem latchCommand_seqSyn (w : Word) : (latchCommand w s).seqSyn = s.seqSyn := rfl
@[simp] theorem latchCommand_seqAck (w : Word) : (latchCommand w s).seqAck = s.seqAck := rfl
@[simp] theorem latchCommand_winTtl (w : Word) : (latchCommand w s).winTtl = s.winTtl := rfl
@[simp] theorem latchCommand_ipId (w : Word) : (latchCommand w s).ipId = s.ipId := rfl
@[simp] theorem latchCommand_timeout (w : Word) : (latchCommand w s).timeout = s.timeout := rfl
@[simp] theorem latchCommand_remain (w : Word) : (latchCommand w s).remain = s.remain := rfl
@[simp] theorem latchCommand_rxLen (w : Word) : (latchCommand w s).rxLen = s.rxLen := rfl
@[simp] theorem latchCommand_peerSeq (w : Word) : (latchCommand w s).peerSeq = s.peerSeq := rfl
@[simp] theorem latchCommand_rxErrCnt (w : Word) : (latchCommand w s).rxErrCnt = s.rxErrCnt := rfl
@[simp] theorem latchCommand_ram (w : Word) : (latchCommand w s).ram = s.ram := rfl
@[simp] theorem latchCommand_latch (w : Word) : (latchCommand w s).latch = { cmd := w, range := s.ckRange, rxLen := s.rxLen, cfg := s.cfg } := rfl
@[simp] theorem latchCommand_rst (w : Word) : (latchCommand w s).rst = s.rst := rfl
@[simp] theorem latchCommand_bus (w : Word) : (latchCommand w s).bus = s.bus := rfl
@[simp] theorem latchCommand_hostWrites (w : Word) : (latchCommand w s).hostWrites = [] := rfl
@[simp] theorem latchCommand_draws (w : Word) : (latchCommand w s).draws = s.draws := rfl
@[simp] theorem latchCommand_history (w : Word) : (latchCommand w s).history = s.history := rfl
@[simp] theorem latchCommand_schedule (w : Word) : (latchCommand w s).schedule = s.schedule := rfl
/-! ### retire -/
@[simp] theorem retire_ctrl : (retire s).ctrl = s.ctrl := rfl
@[simp] theorem retire_session : (retire s).session = s.session := rfl
@[simp] theorem retire_busy : (retire s).busy = false := rfl
@[simp] theorem retire_chanOwn : (retire s).chanOwn = s.chanOwn := rfl
@[simp] theorem retire_txPend : (retire s).txPend = s.txPend := rfl
@[simp] theorem retire_lastMatch : (retire s).lastMatch = s.lastMatch := rfl
@[simp] theorem retire_accOvf : (retire s).accOvf = s.accOvf := rfl
@[simp] theorem retire_doneP : (retire s).doneP = s.doneP := rfl
@[simp] theorem retire_txreqP : (retire s).txreqP = s.txreqP := rfl
@[simp] theorem retire_errP : (retire s).errP = s.errP := rfl
@[simp] theorem retire_errInfo : (retire s).errInfo = s.errInfo := rfl
@[simp] theorem retire_errCmd : (retire s).errCmd = s.errCmd := rfl
@[simp] theorem retire_ckRange : (retire s).ckRange = s.ckRange := rfl
@[simp] theorem retire_ckAcc : (retire s).ckAcc = s.ckAcc := rfl
@[simp] theorem retire_ckResult : (retire s).ckResult = s.ckResult := rfl
@[simp] theorem retire_clientAddr : (retire s).clientAddr = s.clientAddr := rfl
@[simp] theorem retire_serverAddr : (retire s).serverAddr = s.serverAddr := rfl
@[simp] theorem retire_ports : (retire s).ports = s.ports := rfl
@[simp] theorem retire_seqSyn : (retire s).seqSyn = s.seqSyn := rfl
@[simp] theorem retire_seqAck : (retire s).seqAck = s.seqAck := rfl
@[simp] theorem retire_winTtl : (retire s).winTtl = s.winTtl := rfl
@[simp] theorem retire_ipId : (retire s).ipId = s.ipId := rfl
@[simp] theorem retire_timeout : (retire s).timeout = s.timeout := rfl
@[simp] theorem retire_remain : (retire s).remain = s.remain := rfl
@[simp] theorem retire_rxLen : (retire s).rxLen = s.rxLen := rfl
@[simp] theorem retire_peerSeq : (retire s).peerSeq = s.peerSeq := rfl
@[simp] theorem retire_rxErrCnt : (retire s).rxErrCnt = s.rxErrCnt := rfl
@[simp] theorem retire_ram : (retire s).ram = s.ram := rfl
@[simp] theorem retire_latch : (retire s).latch = s.latch := rfl
@[simp] theorem retire_rst : (retire s).rst = s.rst := rfl
@[simp] theorem retire_bus : (retire s).bus = s.bus := rfl
@[simp] theorem retire_hostWrites : (retire s).hostWrites = [] := rfl
@[simp] theorem retire_draws : (retire s).draws = s.draws := rfl
@[simp] theorem retire_history : (retire s).history = s.history := rfl
@[simp] theorem retire_schedule : (retire s).schedule = s.schedule := rfl
/-! ### answer -/
@[simp] theorem answer_ctrl (r : BusResp) : (answer r s).ctrl = s.ctrl := rfl
@[simp] theorem answer_session (r : BusResp) : (answer r s).session = s.session := rfl
@[simp] theorem answer_busy (r : BusResp) : (answer r s).busy = s.busy := rfl
@[simp] theorem answer_chanOwn (r : BusResp) : (answer r s).chanOwn = s.chanOwn := rfl
@[simp] theorem answer_txPend (r : BusResp) : (answer r s).txPend = s.txPend := rfl
@[simp] theorem answer_lastMatch (r : BusResp) : (answer r s).lastMatch = s.lastMatch := rfl
@[simp] theorem answer_accOvf (r : BusResp) : (answer r s).accOvf = s.accOvf := rfl
@[simp] theorem answer_doneP (r : BusResp) : (answer r s).doneP = s.doneP := rfl
@[simp] theorem answer_txreqP (r : BusResp) : (answer r s).txreqP = s.txreqP := rfl
@[simp] theorem answer_errP (r : BusResp) : (answer r s).errP = s.errP := rfl
@[simp] theorem answer_errInfo (r : BusResp) : (answer r s).errInfo = s.errInfo := rfl
@[simp] theorem answer_errCmd (r : BusResp) : (answer r s).errCmd = s.errCmd := rfl
@[simp] theorem answer_ckRange (r : BusResp) : (answer r s).ckRange = s.ckRange := rfl
@[simp] theorem answer_ckAcc (r : BusResp) : (answer r s).ckAcc = s.ckAcc := rfl
@[simp] theorem answer_ckResult (r : BusResp) : (answer r s).ckResult = s.ckResult := rfl
@[simp] theorem answer_clientAddr (r : BusResp) : (answer r s).clientAddr = s.clientAddr := rfl
@[simp] theorem answer_serverAddr (r : BusResp) : (answer r s).serverAddr = s.serverAddr := rfl
@[simp] theorem answer_ports (r : BusResp) : (answer r s).ports = s.ports := rfl
@[simp] theorem answer_seqSyn (r : BusResp) : (answer r s).seqSyn = s.seqSyn := rfl
@[simp] theorem answer_seqAck (r : BusResp) : (answer r s).seqAck = s.seqAck := rfl
@[simp] theorem answer_winTtl (r : BusResp) : (answer r s).winTtl = s.winTtl := rfl
@[simp] theorem answer_ipId (r : BusResp) : (answer r s).ipId = s.ipId := rfl
@[simp] theorem answer_timeout (r : BusResp) : (answer r s).timeout = s.timeout := rfl
@[simp] theorem answer_remain (r : BusResp) : (answer r s).remain = s.remain := rfl
@[simp] theorem answer_rxLen (r : BusResp) : (answer r s).rxLen = s.rxLen := rfl
@[simp] theorem answer_peerSeq (r : BusResp) : (answer r s).peerSeq = s.peerSeq := rfl
@[simp] theorem answer_rxErrCnt (r : BusResp) : (answer r s).rxErrCnt = s.rxErrCnt := rfl
@[simp] theorem answer_ram (r : BusResp) : (answer r s).ram = s.ram := rfl
@[simp] theorem answer_latch (r : BusResp) : (answer r s).latch = s.latch := rfl
@[simp] theorem answer_rst (r : BusResp) : (answer r s).rst = s.rst := rfl
@[simp] theorem answer_bus (r : BusResp) : (answer r s).bus = r := rfl
@[simp] theorem answer_hostWrites (r : BusResp) : (answer r s).hostWrites = s.hostWrites := rfl
@[simp] theorem answer_draws (r : BusResp) : (answer r s).draws = s.draws := rfl
@[simp] theorem answer_history (r : BusResp) : (answer r s).history = s.history := rfl
@[simp] theorem answer_schedule (r : BusResp) : (answer r s).schedule = s.schedule := rfl
/-! ### accumulate -/
@[simp] theorem accumulate_ctrl (v : Word) : (accumulate v s).ctrl = s.ctrl := rfl
@[simp] theorem accumulate_session (v : Word) : (accumulate v s).session = s.session := rfl
@[simp] theorem accumulate_busy (v : Word) : (accumulate v s).busy = s.busy := rfl
@[simp] theorem accumulate_chanOwn (v : Word) : (accumulate v s).chanOwn = s.chanOwn := rfl
@[simp] theorem accumulate_txPend (v : Word) : (accumulate v s).txPend = s.txPend := rfl
@[simp] theorem accumulate_lastMatch (v : Word) : (accumulate v s).lastMatch = s.lastMatch := rfl
@[simp] theorem accumulate_accOvf (v : Word) : (accumulate v s).accOvf = (s.accOvf || accCarry s.ckAcc v) := rfl
@[simp] theorem accumulate_doneP (v : Word) : (accumulate v s).doneP = s.doneP := rfl
@[simp] theorem accumulate_txreqP (v : Word) : (accumulate v s).txreqP = s.txreqP := rfl
@[simp] theorem accumulate_errP (v : Word) : (accumulate v s).errP = s.errP := rfl
@[simp] theorem accumulate_errInfo (v : Word) : (accumulate v s).errInfo = s.errInfo := rfl
@[simp] theorem accumulate_errCmd (v : Word) : (accumulate v s).errCmd = s.errCmd := rfl
@[simp] theorem accumulate_ckRange (v : Word) : (accumulate v s).ckRange = s.ckRange := rfl
@[simp] theorem accumulate_ckAcc (v : Word) : (accumulate v s).ckAcc = accSum s.ckAcc v := rfl
@[simp] theorem accumulate_ckResult (v : Word) : (accumulate v s).ckResult = s.ckResult := rfl
@[simp] theorem accumulate_clientAddr (v : Word) : (accumulate v s).clientAddr = s.clientAddr := rfl
@[simp] theorem accumulate_serverAddr (v : Word) : (accumulate v s).serverAddr = s.serverAddr := rfl
@[simp] theorem accumulate_ports (v : Word) : (accumulate v s).ports = s.ports := rfl
@[simp] theorem accumulate_seqSyn (v : Word) : (accumulate v s).seqSyn = s.seqSyn := rfl
@[simp] theorem accumulate_seqAck (v : Word) : (accumulate v s).seqAck = s.seqAck := rfl
@[simp] theorem accumulate_winTtl (v : Word) : (accumulate v s).winTtl = s.winTtl := rfl
@[simp] theorem accumulate_ipId (v : Word) : (accumulate v s).ipId = s.ipId := rfl
@[simp] theorem accumulate_timeout (v : Word) : (accumulate v s).timeout = s.timeout := rfl
@[simp] theorem accumulate_remain (v : Word) : (accumulate v s).remain = s.remain := rfl
@[simp] theorem accumulate_rxLen (v : Word) : (accumulate v s).rxLen = s.rxLen := rfl
@[simp] theorem accumulate_peerSeq (v : Word) : (accumulate v s).peerSeq = s.peerSeq := rfl
@[simp] theorem accumulate_rxErrCnt (v : Word) : (accumulate v s).rxErrCnt = s.rxErrCnt := rfl
@[simp] theorem accumulate_ram (v : Word) : (accumulate v s).ram = s.ram := rfl
@[simp] theorem accumulate_latch (v : Word) : (accumulate v s).latch = s.latch := rfl
@[simp] theorem accumulate_rst (v : Word) : (accumulate v s).rst = s.rst := rfl
@[simp] theorem accumulate_bus (v : Word) : (accumulate v s).bus = s.bus := rfl
@[simp] theorem accumulate_hostWrites (v : Word) : (accumulate v s).hostWrites = s.hostWrites := rfl
@[simp] theorem accumulate_draws (v : Word) : (accumulate v s).draws = s.draws := rfl
@[simp] theorem accumulate_history (v : Word) : (accumulate v s).history = s.history := rfl
@[simp] theorem accumulate_schedule (v : Word) : (accumulate v s).schedule = s.schedule := rfl
/-! ### loadEngine -/
@[simp] theorem loadEngine_ctrl (bytes : List Byte) : (loadEngine bytes s).ctrl = s.ctrl := rfl
@[simp] theorem loadEngine_session (bytes : List Byte) : (loadEngine bytes s).session = s.session := rfl
@[simp] theorem loadEngine_busy (bytes : List Byte) : (loadEngine bytes s).busy = s.busy := rfl
@[simp] theorem loadEngine_chanOwn (bytes : List Byte) : (loadEngine bytes s).chanOwn = s.chanOwn := rfl
@[simp] theorem loadEngine_txPend (bytes : List Byte) : (loadEngine bytes s).txPend = s.txPend := rfl
@[simp] theorem loadEngine_lastMatch (bytes : List Byte) : (loadEngine bytes s).lastMatch = s.lastMatch := rfl
@[simp] theorem loadEngine_accOvf (bytes : List Byte) : (loadEngine bytes s).accOvf = false := rfl
@[simp] theorem loadEngine_doneP (bytes : List Byte) : (loadEngine bytes s).doneP = s.doneP := rfl
@[simp] theorem loadEngine_txreqP (bytes : List Byte) : (loadEngine bytes s).txreqP = s.txreqP := rfl
@[simp] theorem loadEngine_errP (bytes : List Byte) : (loadEngine bytes s).errP = s.errP := rfl
@[simp] theorem loadEngine_errInfo (bytes : List Byte) : (loadEngine bytes s).errInfo = s.errInfo := rfl
@[simp] theorem loadEngine_errCmd (bytes : List Byte) : (loadEngine bytes s).errCmd = s.errCmd := rfl
@[simp] theorem loadEngine_ckRange (bytes : List Byte) : (loadEngine bytes s).ckRange = s.ckRange := rfl
@[simp] theorem loadEngine_ckAcc (bytes : List Byte) : (loadEngine bytes s).ckAcc = sumOf bytes := rfl
@[simp] theorem loadEngine_ckResult (bytes : List Byte) : (loadEngine bytes s).ckResult = checksum bytes := rfl
@[simp] theorem loadEngine_clientAddr (bytes : List Byte) : (loadEngine bytes s).clientAddr = s.clientAddr := rfl
@[simp] theorem loadEngine_serverAddr (bytes : List Byte) : (loadEngine bytes s).serverAddr = s.serverAddr := rfl
@[simp] theorem loadEngine_ports (bytes : List Byte) : (loadEngine bytes s).ports = s.ports := rfl
@[simp] theorem loadEngine_seqSyn (bytes : List Byte) : (loadEngine bytes s).seqSyn = s.seqSyn := rfl
@[simp] theorem loadEngine_seqAck (bytes : List Byte) : (loadEngine bytes s).seqAck = s.seqAck := rfl
@[simp] theorem loadEngine_winTtl (bytes : List Byte) : (loadEngine bytes s).winTtl = s.winTtl := rfl
@[simp] theorem loadEngine_ipId (bytes : List Byte) : (loadEngine bytes s).ipId = s.ipId := rfl
@[simp] theorem loadEngine_timeout (bytes : List Byte) : (loadEngine bytes s).timeout = s.timeout := rfl
@[simp] theorem loadEngine_remain (bytes : List Byte) : (loadEngine bytes s).remain = s.remain := rfl
@[simp] theorem loadEngine_rxLen (bytes : List Byte) : (loadEngine bytes s).rxLen = s.rxLen := rfl
@[simp] theorem loadEngine_peerSeq (bytes : List Byte) : (loadEngine bytes s).peerSeq = s.peerSeq := rfl
@[simp] theorem loadEngine_rxErrCnt (bytes : List Byte) : (loadEngine bytes s).rxErrCnt = s.rxErrCnt := rfl
@[simp] theorem loadEngine_ram (bytes : List Byte) : (loadEngine bytes s).ram = s.ram := rfl
@[simp] theorem loadEngine_latch (bytes : List Byte) : (loadEngine bytes s).latch = s.latch := rfl
@[simp] theorem loadEngine_rst (bytes : List Byte) : (loadEngine bytes s).rst = s.rst := rfl
@[simp] theorem loadEngine_bus (bytes : List Byte) : (loadEngine bytes s).bus = s.bus := rfl
@[simp] theorem loadEngine_hostWrites (bytes : List Byte) : (loadEngine bytes s).hostWrites = s.hostWrites := rfl
@[simp] theorem loadEngine_draws (bytes : List Byte) : (loadEngine bytes s).draws = s.draws := rfl
@[simp] theorem loadEngine_history (bytes : List Byte) : (loadEngine bytes s).history = s.history := rfl
@[simp] theorem loadEngine_schedule (bytes : List Byte) : (loadEngine bytes s).schedule = s.schedule := rfl
/-! ### build -/
@[simp] theorem build_ctrl (k : PacketKind) (cfg : Cfg) (peerSeq : Word) : (build k cfg peerSeq s).ctrl = s.ctrl := rfl
@[simp] theorem build_session (k : PacketKind) (cfg : Cfg) (peerSeq : Word) : (build k cfg peerSeq s).session = s.session := rfl
@[simp] theorem build_busy (k : PacketKind) (cfg : Cfg) (peerSeq : Word) : (build k cfg peerSeq s).busy = s.busy := rfl
@[simp] theorem build_chanOwn (k : PacketKind) (cfg : Cfg) (peerSeq : Word) : (build k cfg peerSeq s).chanOwn = s.chanOwn := rfl
@[simp] theorem build_txPend (k : PacketKind) (cfg : Cfg) (peerSeq : Word) : (build k cfg peerSeq s).txPend = s.txPend := rfl
@[simp] theorem build_lastMatch (k : PacketKind) (cfg : Cfg) (peerSeq : Word) : (build k cfg peerSeq s).lastMatch = s.lastMatch := rfl
@[simp] theorem build_accOvf (k : PacketKind) (cfg : Cfg) (peerSeq : Word) : (build k cfg peerSeq s).accOvf = false := rfl
@[simp] theorem build_doneP (k : PacketKind) (cfg : Cfg) (peerSeq : Word) : (build k cfg peerSeq s).doneP = s.doneP := rfl
@[simp] theorem build_txreqP (k : PacketKind) (cfg : Cfg) (peerSeq : Word) : (build k cfg peerSeq s).txreqP = s.txreqP := rfl
@[simp] theorem build_errP (k : PacketKind) (cfg : Cfg) (peerSeq : Word) : (build k cfg peerSeq s).errP = s.errP := rfl
@[simp] theorem build_errInfo (k : PacketKind) (cfg : Cfg) (peerSeq : Word) : (build k cfg peerSeq s).errInfo = s.errInfo := rfl
@[simp] theorem build_errCmd (k : PacketKind) (cfg : Cfg) (peerSeq : Word) : (build k cfg peerSeq s).errCmd = s.errCmd := rfl
@[simp] theorem build_ckRange (k : PacketKind) (cfg : Cfg) (peerSeq : Word) : (build k cfg peerSeq s).ckRange = s.ckRange := rfl
@[simp] theorem build_ckAcc (k : PacketKind) (cfg : Cfg) (peerSeq : Word) : (build k cfg peerSeq s).ckAcc = sumOf (ipCovered k cfg peerSeq) := rfl
@[simp] theorem build_ckResult (k : PacketKind) (cfg : Cfg) (peerSeq : Word) : (build k cfg peerSeq s).ckResult = checksum (ipCovered k cfg peerSeq) := rfl
@[simp] theorem build_clientAddr (k : PacketKind) (cfg : Cfg) (peerSeq : Word) : (build k cfg peerSeq s).clientAddr = s.clientAddr := rfl
@[simp] theorem build_serverAddr (k : PacketKind) (cfg : Cfg) (peerSeq : Word) : (build k cfg peerSeq s).serverAddr = s.serverAddr := rfl
@[simp] theorem build_ports (k : PacketKind) (cfg : Cfg) (peerSeq : Word) : (build k cfg peerSeq s).ports = s.ports := rfl
@[simp] theorem build_seqSyn (k : PacketKind) (cfg : Cfg) (peerSeq : Word) : (build k cfg peerSeq s).seqSyn = s.seqSyn := rfl
@[simp] theorem build_seqAck (k : PacketKind) (cfg : Cfg) (peerSeq : Word) : (build k cfg peerSeq s).seqAck = s.seqAck := rfl
@[simp] theorem build_winTtl (k : PacketKind) (cfg : Cfg) (peerSeq : Word) : (build k cfg peerSeq s).winTtl = s.winTtl := rfl
@[simp] theorem build_ipId (k : PacketKind) (cfg : Cfg) (peerSeq : Word) : (build k cfg peerSeq s).ipId = s.ipId := rfl
@[simp] theorem build_timeout (k : PacketKind) (cfg : Cfg) (peerSeq : Word) : (build k cfg peerSeq s).timeout = s.timeout := rfl
@[simp] theorem build_remain (k : PacketKind) (cfg : Cfg) (peerSeq : Word) : (build k cfg peerSeq s).remain = s.remain := rfl
@[simp] theorem build_rxLen (k : PacketKind) (cfg : Cfg) (peerSeq : Word) : (build k cfg peerSeq s).rxLen = s.rxLen := rfl
@[simp] theorem build_peerSeq (k : PacketKind) (cfg : Cfg) (peerSeq : Word) : (build k cfg peerSeq s).peerSeq = s.peerSeq := rfl
@[simp] theorem build_rxErrCnt (k : PacketKind) (cfg : Cfg) (peerSeq : Word) : (build k cfg peerSeq s).rxErrCnt = s.rxErrCnt := rfl
@[simp] theorem build_ram (k : PacketKind) (cfg : Cfg) (peerSeq : Word) : (build k cfg peerSeq s).ram = Memory.putAll s.ram Config.txBase (txPacket k cfg peerSeq) := by simp [build]
@[simp] theorem build_latch (k : PacketKind) (cfg : Cfg) (peerSeq : Word) : (build k cfg peerSeq s).latch = s.latch := rfl
@[simp] theorem build_rst (k : PacketKind) (cfg : Cfg) (peerSeq : Word) : (build k cfg peerSeq s).rst = s.rst := rfl
@[simp] theorem build_bus (k : PacketKind) (cfg : Cfg) (peerSeq : Word) : (build k cfg peerSeq s).bus = s.bus := rfl
@[simp] theorem build_hostWrites (k : PacketKind) (cfg : Cfg) (peerSeq : Word) : (build k cfg peerSeq s).hostWrites = s.hostWrites := rfl
@[simp] theorem build_draws (k : PacketKind) (cfg : Cfg) (peerSeq : Word) : (build k cfg peerSeq s).draws = s.draws := rfl
@[simp] theorem build_history (k : PacketKind) (cfg : Cfg) (peerSeq : Word) : (build k cfg peerSeq s).history = s.history := rfl
@[simp] theorem build_schedule (k : PacketKind) (cfg : Cfg) (peerSeq : Word) : (build k cfg peerSeq s).schedule = s.schedule := rfl
/-! ### acceptSynAck -/
@[simp] theorem acceptSynAck_ctrl (seq : Word) : (acceptSynAck seq s).ctrl = s.ctrl := rfl
@[simp] theorem acceptSynAck_session (seq : Word) : (acceptSynAck seq s).session = .ackReady := rfl
@[simp] theorem acceptSynAck_busy (seq : Word) : (acceptSynAck seq s).busy = s.busy := rfl
@[simp] theorem acceptSynAck_chanOwn (seq : Word) : (acceptSynAck seq s).chanOwn = s.chanOwn := rfl
@[simp] theorem acceptSynAck_txPend (seq : Word) : (acceptSynAck seq s).txPend = true := rfl
@[simp] theorem acceptSynAck_lastMatch (seq : Word) : (acceptSynAck seq s).lastMatch = true := rfl
@[simp] theorem acceptSynAck_accOvf (seq : Word) : (acceptSynAck seq s).accOvf = false := rfl
@[simp] theorem acceptSynAck_doneP (seq : Word) : (acceptSynAck seq s).doneP = s.doneP := rfl
@[simp] theorem acceptSynAck_txreqP (seq : Word) : (acceptSynAck seq s).txreqP = true := rfl
@[simp] theorem acceptSynAck_errP (seq : Word) : (acceptSynAck seq s).errP = s.errP := rfl
@[simp] theorem acceptSynAck_errInfo (seq : Word) : (acceptSynAck seq s).errInfo = s.errInfo := rfl
@[simp] theorem acceptSynAck_errCmd (seq : Word) : (acceptSynAck seq s).errCmd = s.errCmd := rfl
@[simp] theorem acceptSynAck_ckRange (seq : Word) : (acceptSynAck seq s).ckRange = s.ckRange := rfl
@[simp] theorem acceptSynAck_ckAcc (seq : Word) : (acceptSynAck seq s).ckAcc = sumOf (ipCovered .ack s.latch.cfg seq) := rfl
@[simp] theorem acceptSynAck_ckResult (seq : Word) : (acceptSynAck seq s).ckResult = checksum (ipCovered .ack s.latch.cfg seq) := rfl
@[simp] theorem acceptSynAck_clientAddr (seq : Word) : (acceptSynAck seq s).clientAddr = s.clientAddr := rfl
@[simp] theorem acceptSynAck_serverAddr (seq : Word) : (acceptSynAck seq s).serverAddr = s.serverAddr := rfl
@[simp] theorem acceptSynAck_ports (seq : Word) : (acceptSynAck seq s).ports = s.ports := rfl
@[simp] theorem acceptSynAck_seqSyn (seq : Word) : (acceptSynAck seq s).seqSyn = s.seqSyn := rfl
@[simp] theorem acceptSynAck_seqAck (seq : Word) : (acceptSynAck seq s).seqAck = s.seqAck := rfl
@[simp] theorem acceptSynAck_winTtl (seq : Word) : (acceptSynAck seq s).winTtl = s.winTtl := rfl
@[simp] theorem acceptSynAck_ipId (seq : Word) : (acceptSynAck seq s).ipId = s.ipId := rfl
@[simp] theorem acceptSynAck_timeout (seq : Word) : (acceptSynAck seq s).timeout = s.timeout := rfl
@[simp] theorem acceptSynAck_remain (seq : Word) : (acceptSynAck seq s).remain = s.remain := rfl
@[simp] theorem acceptSynAck_rxLen (seq : Word) : (acceptSynAck seq s).rxLen = s.rxLen := rfl
@[simp] theorem acceptSynAck_peerSeq (seq : Word) : (acceptSynAck seq s).peerSeq = seq := rfl
@[simp] theorem acceptSynAck_rxErrCnt (seq : Word) : (acceptSynAck seq s).rxErrCnt = s.rxErrCnt := rfl
@[simp] theorem acceptSynAck_ram (seq : Word) : (acceptSynAck seq s).ram = Memory.putAll s.ram Config.txBase (txPacket .ack s.latch.cfg seq) := by simp [acceptSynAck]
@[simp] theorem acceptSynAck_latch (seq : Word) : (acceptSynAck seq s).latch = s.latch := rfl
@[simp] theorem acceptSynAck_rst (seq : Word) : (acceptSynAck seq s).rst = s.rst := rfl
@[simp] theorem acceptSynAck_bus (seq : Word) : (acceptSynAck seq s).bus = s.bus := rfl
@[simp] theorem acceptSynAck_hostWrites (seq : Word) : (acceptSynAck seq s).hostWrites = s.hostWrites := rfl
@[simp] theorem acceptSynAck_draws (seq : Word) : (acceptSynAck seq s).draws = s.draws := rfl
@[simp] theorem acceptSynAck_history (seq : Word) : (acceptSynAck seq s).history = { s.history with accepted := seq :: s.history.accepted } := rfl
@[simp] theorem acceptSynAck_schedule (seq : Word) : (acceptSynAck seq s).schedule = s.schedule := rfl
/-! ### writeWindow -/
@[simp] theorem writeWindow_ctrl (o : Nat) (bytes : List Byte) : (writeWindow o bytes s).ctrl = s.ctrl := rfl
@[simp] theorem writeWindow_session (o : Nat) (bytes : List Byte) : (writeWindow o bytes s).session = s.session := rfl
@[simp] theorem writeWindow_busy (o : Nat) (bytes : List Byte) : (writeWindow o bytes s).busy = s.busy := rfl
@[simp] theorem writeWindow_chanOwn (o : Nat) (bytes : List Byte) : (writeWindow o bytes s).chanOwn = s.chanOwn := rfl
@[simp] theorem writeWindow_txPend (o : Nat) (bytes : List Byte) : (writeWindow o bytes s).txPend = s.txPend := rfl
@[simp] theorem writeWindow_lastMatch (o : Nat) (bytes : List Byte) : (writeWindow o bytes s).lastMatch = s.lastMatch := rfl
@[simp] theorem writeWindow_accOvf (o : Nat) (bytes : List Byte) : (writeWindow o bytes s).accOvf = s.accOvf := rfl
@[simp] theorem writeWindow_doneP (o : Nat) (bytes : List Byte) : (writeWindow o bytes s).doneP = s.doneP := rfl
@[simp] theorem writeWindow_txreqP (o : Nat) (bytes : List Byte) : (writeWindow o bytes s).txreqP = s.txreqP := rfl
@[simp] theorem writeWindow_errP (o : Nat) (bytes : List Byte) : (writeWindow o bytes s).errP = s.errP := rfl
@[simp] theorem writeWindow_errInfo (o : Nat) (bytes : List Byte) : (writeWindow o bytes s).errInfo = s.errInfo := rfl
@[simp] theorem writeWindow_errCmd (o : Nat) (bytes : List Byte) : (writeWindow o bytes s).errCmd = s.errCmd := rfl
@[simp] theorem writeWindow_ckRange (o : Nat) (bytes : List Byte) : (writeWindow o bytes s).ckRange = s.ckRange := rfl
@[simp] theorem writeWindow_ckAcc (o : Nat) (bytes : List Byte) : (writeWindow o bytes s).ckAcc = s.ckAcc := rfl
@[simp] theorem writeWindow_ckResult (o : Nat) (bytes : List Byte) : (writeWindow o bytes s).ckResult = s.ckResult := rfl
@[simp] theorem writeWindow_clientAddr (o : Nat) (bytes : List Byte) : (writeWindow o bytes s).clientAddr = s.clientAddr := rfl
@[simp] theorem writeWindow_serverAddr (o : Nat) (bytes : List Byte) : (writeWindow o bytes s).serverAddr = s.serverAddr := rfl
@[simp] theorem writeWindow_ports (o : Nat) (bytes : List Byte) : (writeWindow o bytes s).ports = s.ports := rfl
@[simp] theorem writeWindow_seqSyn (o : Nat) (bytes : List Byte) : (writeWindow o bytes s).seqSyn = s.seqSyn := rfl
@[simp] theorem writeWindow_seqAck (o : Nat) (bytes : List Byte) : (writeWindow o bytes s).seqAck = s.seqAck := rfl
@[simp] theorem writeWindow_winTtl (o : Nat) (bytes : List Byte) : (writeWindow o bytes s).winTtl = s.winTtl := rfl
@[simp] theorem writeWindow_ipId (o : Nat) (bytes : List Byte) : (writeWindow o bytes s).ipId = s.ipId := rfl
@[simp] theorem writeWindow_timeout (o : Nat) (bytes : List Byte) : (writeWindow o bytes s).timeout = s.timeout := rfl
@[simp] theorem writeWindow_remain (o : Nat) (bytes : List Byte) : (writeWindow o bytes s).remain = s.remain := rfl
@[simp] theorem writeWindow_rxLen (o : Nat) (bytes : List Byte) : (writeWindow o bytes s).rxLen = s.rxLen := rfl
@[simp] theorem writeWindow_peerSeq (o : Nat) (bytes : List Byte) : (writeWindow o bytes s).peerSeq = s.peerSeq := rfl
@[simp] theorem writeWindow_rxErrCnt (o : Nat) (bytes : List Byte) : (writeWindow o bytes s).rxErrCnt = s.rxErrCnt := rfl
@[simp] theorem writeWindow_ram (o : Nat) (bytes : List Byte) : (writeWindow o bytes s).ram = Memory.putAll s.ram o bytes := rfl
@[simp] theorem writeWindow_latch (o : Nat) (bytes : List Byte) : (writeWindow o bytes s).latch = s.latch := rfl
@[simp] theorem writeWindow_rst (o : Nat) (bytes : List Byte) : (writeWindow o bytes s).rst = s.rst := rfl
@[simp] theorem writeWindow_bus (o : Nat) (bytes : List Byte) : (writeWindow o bytes s).bus = s.bus := rfl
@[simp] theorem writeWindow_hostWrites (o : Nat) (bytes : List Byte) : (writeWindow o bytes s).hostWrites = if s.busy then (o, bytes.length) :: s.hostWrites else s.hostWrites := rfl
@[simp] theorem writeWindow_draws (o : Nat) (bytes : List Byte) : (writeWindow o bytes s).draws = s.draws := rfl
@[simp] theorem writeWindow_history (o : Nat) (bytes : List Byte) : (writeWindow o bytes s).history = s.history := rfl
@[simp] theorem writeWindow_schedule (o : Nat) (bytes : List Byte) : (writeWindow o bytes s).schedule = s.schedule := rfl
/-! ### afterTaking -/
@[simp] theorem afterTaking_ctrl : (afterTaking s).ctrl = s.ctrl := rfl
@[simp] theorem afterTaking_session : (afterTaking s).session = s.session := rfl
@[simp] theorem afterTaking_busy : (afterTaking s).busy = s.busy := rfl
@[simp] theorem afterTaking_chanOwn : (afterTaking s).chanOwn = s.chanOwn := rfl
@[simp] theorem afterTaking_txPend : (afterTaking s).txPend = s.txPend := rfl
@[simp] theorem afterTaking_lastMatch : (afterTaking s).lastMatch = s.lastMatch := rfl
@[simp] theorem afterTaking_accOvf : (afterTaking s).accOvf = s.accOvf := rfl
@[simp] theorem afterTaking_doneP : (afterTaking s).doneP = s.doneP := rfl
@[simp] theorem afterTaking_txreqP : (afterTaking s).txreqP = s.txreqP := rfl
@[simp] theorem afterTaking_errP : (afterTaking s).errP = s.errP := rfl
@[simp] theorem afterTaking_errInfo : (afterTaking s).errInfo = s.errInfo := rfl
@[simp] theorem afterTaking_errCmd : (afterTaking s).errCmd = s.errCmd := rfl
@[simp] theorem afterTaking_ckRange : (afterTaking s).ckRange = s.ckRange := rfl
@[simp] theorem afterTaking_ckAcc : (afterTaking s).ckAcc = s.ckAcc := rfl
@[simp] theorem afterTaking_ckResult : (afterTaking s).ckResult = s.ckResult := rfl
@[simp] theorem afterTaking_clientAddr : (afterTaking s).clientAddr = s.clientAddr := rfl
@[simp] theorem afterTaking_serverAddr : (afterTaking s).serverAddr = s.serverAddr := rfl
@[simp] theorem afterTaking_ports : (afterTaking s).ports = s.ports := rfl
@[simp] theorem afterTaking_seqSyn : (afterTaking s).seqSyn = s.seqSyn := rfl
@[simp] theorem afterTaking_seqAck : (afterTaking s).seqAck = s.seqAck := rfl
@[simp] theorem afterTaking_winTtl : (afterTaking s).winTtl = s.winTtl := rfl
@[simp] theorem afterTaking_ipId : (afterTaking s).ipId = s.ipId := rfl
@[simp] theorem afterTaking_timeout : (afterTaking s).timeout = s.timeout := rfl
@[simp] theorem afterTaking_remain : (afterTaking s).remain = s.remain := rfl
@[simp] theorem afterTaking_rxLen : (afterTaking s).rxLen = s.rxLen := rfl
@[simp] theorem afterTaking_peerSeq : (afterTaking s).peerSeq = s.peerSeq := rfl
@[simp] theorem afterTaking_rxErrCnt : (afterTaking s).rxErrCnt = s.rxErrCnt := rfl
@[simp] theorem afterTaking_ram : (afterTaking s).ram = s.ram := rfl
@[simp] theorem afterTaking_latch : (afterTaking s).latch = s.latch := rfl
@[simp] theorem afterTaking_rst : (afterTaking s).rst = s.rst := rfl
@[simp] theorem afterTaking_bus : (afterTaking s).bus = s.bus := rfl
@[simp] theorem afterTaking_hostWrites : (afterTaking s).hostWrites = s.hostWrites := rfl
@[simp] theorem afterTaking_draws : (afterTaking s).draws = s.draws := rfl
@[simp] theorem afterTaking_history : (afterTaking s).history = s.history := rfl
@[simp] theorem afterTaking_schedule : (afterTaking s).schedule = s.schedule.tail := rfl
end Sys2Proof.Machine
end

