-- ==== Sys2Proof/Laws/Memory.lean ====
section
/-! SUPPORT. The laws of PKT_RAM: read after write, what a write leaves alone, that every operation keeps the
canonical form, that equal contents are equal lists, and one spec lemma for each reading operation. -/

namespace Sys2Proof.Machine

/-- Reading after writing one byte. -/
theorem byteAt_put (m : Memory) (k : Nat) (v : Byte) (a : Nat) :
    Memory.byteAt (Memory.put m k v) a = if a = k then some v else Memory.byteAt m a := by
  induction m with
  | nil => simp [Memory.put, Memory.byteAt, eq_comm]
  | cons c m ih =>
    obtain ⟨o, b⟩ := c
    simp only [Memory.put]
    split
    · simp [Memory.byteAt, eq_comm]
    · split
      · rename_i h; subst h
        simp only [Memory.byteAt]
        by_cases h : k = a <;> simp [h, eq_comm]
      · rename_i h
        simp only [Memory.byteAt, ih]
        by_cases h' : o = a
        · subst h'; simp [Ne.symm h]
        · simp [h']

/-- Reading after writing a byte sequence. -/
theorem byteAt_putAll (m : Memory) (k : Nat) (bs : List Byte) (a : Nat) :
    Memory.byteAt (Memory.putAll m k bs) a =
      if k ≤ a ∧ a < k + bs.length then bs[a - k]? else Memory.byteAt m a := by
  induction bs generalizing m k with
  | nil => simp only [Memory.putAll, List.length_nil]; split <;> [omega; rfl]
  | cons b bs ih =>
    simp only [Memory.putAll, ih, byteAt_put, List.length_cons]
    by_cases h : a = k
    · subst h; simp
    · by_cases h1 : k + 1 ≤ a ∧ a < k + 1 + bs.length
      · rw [if_pos h1, if_pos (by omega), show a - k = (a - (k + 1)) + 1 by omega, List.getElem?_cons_succ]
      · rw [if_neg h1, if_neg h, if_neg (by omega)]

theorem byteAt_putAll_outside {m : Memory} {k : Nat} {bs : List Byte} {a : Nat}
    (h : a < k ∨ k + bs.length ≤ a) :
    Memory.byteAt (Memory.putAll m k bs) a = Memory.byteAt m a := by
  rw [byteAt_putAll, if_neg (by omega)]

theorem byteAt_putAll_inside {m : Memory} {k : Nat} {bs : List Byte} (i : Nat) (h : i < bs.length) :
    Memory.byteAt (Memory.putAll m k bs) (k + i) = some bs[i] := by
  rw [byteAt_putAll, if_pos (by omega), Nat.add_sub_cancel_left, List.getElem?_eq_getElem h]

/-- Below the first listed offset nothing is written. -/
theorem byteAt_of_lt_wfFrom {lo : Nat} {m : Memory} (h : Memory.wfFrom lo m = true) {a : Nat} (ha : a < lo) :
    Memory.byteAt m a = none := by
  induction m generalizing lo with
  | nil => rfl
  | cons c m ih =>
    obtain ⟨o, b⟩ := c
    simp only [Memory.wfFrom, Bool.and_eq_true, decide_eq_true_eq] at h
    simp only [Memory.byteAt, if_neg (show o ≠ a by omega)]
    exact ih h.2 (by omega)

/-- No byte outside PKT_RAM is written. -/
theorem byteAt_outside {lo : Nat} {m : Memory} (h : Memory.wfFrom lo m = true) {a : Nat} (ha : 4096 ≤ a) :
    Memory.byteAt m a = none := by
  induction m generalizing lo with
  | nil => rfl
  | cons c m ih =>
    obtain ⟨o, b⟩ := c
    simp only [Memory.wfFrom, Bool.and_eq_true, decide_eq_true_eq] at h
    have ho : o ≠ a := by have : o < 4096 := h.1.2; omega
    simp only [Memory.byteAt, if_neg ho]
    exact ih h.2

theorem wfFrom_put {lo : Nat} {m : Memory} (h : Memory.wfFrom lo m = true) {k : Nat} (hlo : lo ≤ k)
    (hk : k < 4096) (v : Byte) : Memory.wfFrom lo (Memory.put m k v) = true := by
  induction m generalizing lo with
  | nil => simp [Memory.put, Memory.wfFrom, Config.pktRamBytes, hlo, hk]
  | cons c m ih =>
    obtain ⟨o, b⟩ := c
    simp only [Memory.wfFrom, Config.pktRamBytes, Bool.and_eq_true, decide_eq_true_eq] at h
    simp only [Memory.put]
    split
    · simp [Memory.wfFrom, Config.pktRamBytes, hlo, hk, h]; omega
    · split
      · rename_i h'; subst h'
        simp [Memory.wfFrom, Config.pktRamBytes, hlo, hk, h]
      · simp [Memory.wfFrom, Config.pktRamBytes, h, ih h.2 (by omega)]

/-- Writing inside PKT_RAM keeps the canonical form. -/
theorem wf_putAll {m : Memory} (h : Memory.wf m = true) {k : Nat} {bs : List Byte}
    (hk : k + bs.length ≤ 4096) : Memory.wf (Memory.putAll m k bs) = true := by
  induction bs generalizing m k with
  | nil => exact h
  | cons b bs ih =>
    simp only [List.length_cons] at hk
    exact ih (wfFrom_put h (Nat.zero_le k) (by omega) b) (by omega)

/-- Equal contents are equal lists. -/
theorem memory_ext_from {lo : Nat} {m m' : Memory} (h : Memory.wfFrom lo m = true)
    (h' : Memory.wfFrom lo m' = true) (e : ∀ a, Memory.byteAt m a = Memory.byteAt m' a) : m = m' := by
  induction m generalizing lo m' with
  | nil =>
    cases m' with
    | nil => rfl
    | cons c m' => simpa [Memory.byteAt] using e c.1
  | cons c m ih =>
    obtain ⟨o, b⟩ := c
    simp only [Memory.wfFrom, Bool.and_eq_true, decide_eq_true_eq] at h
    cases m' with
    | nil => simpa [Memory.byteAt] using e o
    | cons c' m' =>
      obtain ⟨o', b'⟩ := c'
      simp only [Memory.wfFrom, Bool.and_eq_true, decide_eq_true_eq] at h'
      have key : o = o' := by
        rcases Nat.lt_trichotomy o o' with hlt | heq | hgt
        · have h1 := e o
          rw [show Memory.byteAt ((o', b') :: m') o = Memory.byteAt m' o by
            simp [Memory.byteAt, show o' ≠ o by omega], byteAt_of_lt_wfFrom h'.2 (by omega)] at h1
          simp [Memory.byteAt] at h1
        · exact heq
        · have h1 := e o'
          rw [show Memory.byteAt ((o, b) :: m) o' = Memory.byteAt m o' by
            simp [Memory.byteAt, show o ≠ o' by omega], byteAt_of_lt_wfFrom h.2 (by omega)] at h1
          simp [Memory.byteAt] at h1
      subst key
      have hb := e o
      simp only [Memory.byteAt, if_true, Option.some.injEq] at hb
      subst hb
      congr 1
      refine ih h.2 h'.2 fun a => ?_
      by_cases ha : o = a
      · subst ha
        rw [byteAt_of_lt_wfFrom h.2 (by omega), byteAt_of_lt_wfFrom h'.2 (by omega)]
      · simpa [Memory.byteAt, ha] using e a

theorem memory_ext {m m' : Memory} (h : Memory.wf m = true) (h' : Memory.wf m' = true)
    (e : ∀ a, Memory.byteAt m a = Memory.byteAt m' a) : m = m' := memory_ext_from h h' e

/-- Reading one byte: it is in PKT_RAM and has been written. -/
theorem readByte_ok_iff {m : Memory} {o : Nat} {b : Byte} :
    readByte m o = .ok b ↔ o < 4096 ∧ Memory.byteAt m o = some b := by
  by_cases h : o < 4096
  · cases hb : Memory.byteAt m o <;> simp [readByte, Config.pktRamBytes, h, hb]
  · simp [readByte, Config.pktRamBytes, h]

theorem readByte_of_byteAt {m : Memory} {o : Nat} {b : Byte} (ho : o < 4096)
    (h : Memory.byteAt m o = some b) : readByte m o = .ok b := readByte_ok_iff.2 ⟨ho, h⟩

/-- Reading one byte that is not there: the fault names it. -/
theorem readByte_error {m : Memory} {o : Nat} {f : Fault} (h : readByte m o = .error f) :
    (4096 ≤ o ∧ f = .outsidePktRam o) ∨ (o < 4096 ∧ Memory.byteAt m o = none ∧ f = .unwrittenByte o) := by
  by_cases ho : o < 4096
  · cases hb : Memory.byteAt m o <;> simp [readByte, Config.pktRamBytes, ho, hb] at h
    exact .inr ⟨ho, rfl, h.symm⟩
  · simp [readByte, Config.pktRamBytes, ho] at h
    exact .inl ⟨by omega, h.symm⟩

/-- One byte's read depends on that byte alone. -/
theorem readByte_congr {m m' : Memory} {o : Nat} (h : Memory.byteAt m' o = Memory.byteAt m o) :
    readByte m' o = readByte m o := by
  simp [readByte, h]

/-- Reading a byte sequence that is there. -/
theorem readBytes_of_byteAt {m : Memory} {o : Nat} {p : List Byte} (ho : o + p.length ≤ 4096)
    (h : ∀ i (hi : i < p.length), Memory.byteAt m (o + i) = some p[i]) :
    readBytes m o p.length = .ok p := by
  induction p generalizing o with
  | nil => rfl
  | cons b p ih =>
    simp only [List.length_cons] at ho ⊢
    have h0 : readByte m o = .ok b :=
      readByte_of_byteAt (by omega) (h 0 (Nat.zero_lt_succ _))
    have h1 : readBytes m (o + 1) p.length = .ok p := ih (by omega) fun i hi => by
      have := h (i + 1) (by simpa using hi)
      simpa [Nat.add_assoc, Nat.add_comm 1 i] using this
    simp [readBytes, h0, h1]

/-- What a successful read of a byte sequence returned. -/
theorem readBytes_ok {m : Memory} {o n : Nat} {p : List Byte} (h : readBytes m o n = .ok p) :
    p.length = n ∧ ∀ i (hi : i < p.length), o + i < 4096 ∧ Memory.byteAt m (o + i) = some p[i] := by
  induction n generalizing o p with
  | zero =>
    simp only [readBytes, Except.ok.injEq] at h
    subst h
    simp
  | succ n ih =>
    simp only [readBytes] at h
    split at h
    · cases h
    · rename_i b hb
      split at h
      · cases h
      · rename_i bs hbs
        simp only [Except.ok.injEq] at h
        subst h
        obtain ⟨hl, hr⟩ := ih hbs
        refine ⟨by simp [hl], fun i hi => ?_⟩
        cases i with
        | zero => simpa using readByte_ok_iff.1 hb
        | succ i =>
          have := hr i (by simpa using hi)
          simpa [Nat.add_assoc, Nat.add_comm 1 i] using this

/-- A read of a byte sequence that faults: the fault names a byte of the sequence that is outside PKT_RAM or not
written. -/
theorem readBytes_error {m : Memory} {o n : Nat} {f : Fault} (h : readBytes m o n = .error f) :
    ∃ u, o ≤ u ∧ u < o + n ∧
      ((4096 ≤ u ∧ f = .outsidePktRam u) ∨ (u < 4096 ∧ Memory.byteAt m u = none ∧ f = .unwrittenByte u)) := by
  induction n generalizing o with
  | zero => simp [readBytes] at h
  | succ n ih =>
    simp only [readBytes] at h
    split at h
    · rename_i f' hf
      simp only [Except.error.injEq] at h
      subst h
      exact ⟨o, by omega, by omega, readByte_error hf⟩
    · split at h
      · rename_i f' hf
        simp only [Except.error.injEq] at h
        subst h
        obtain ⟨u, h1, h2, h3⟩ := ih hf
        exact ⟨u, by omega, by omega, h3⟩
      · cases h

/-- A big-endian 16-bit read of two written bytes (00_scope R10). -/
theorem readBE16_of_byteAt {m : Memory} {o : Nat} {b0 b1 : Byte} (ho : o + 1 < 4096)
    (h0 : Memory.byteAt m o = some b0) (h1 : Memory.byteAt m (o + 1) = some b1) :
    readBE16 m o = .ok (b0 ++ b1) := by
  simp [readBE16, readByte_of_byteAt (show o < 4096 by omega) h0, readByte_of_byteAt ho h1]

/-- A big-endian 32-bit read of four written bytes (00_scope R10). -/
theorem readBE32_of_byteAt {m : Memory} {o : Nat} {b0 b1 b2 b3 : Byte} (ho : o + 3 < 4096)
    (h0 : Memory.byteAt m o = some b0) (h1 : Memory.byteAt m (o + 1) = some b1)
    (h2 : Memory.byteAt m (o + 2) = some b2) (h3 : Memory.byteAt m (o + 3) = some b3) :
    readBE32 m o = .ok ((b0 ++ b1 : Half) ++ (b2 ++ b3 : Half)) := by
  have e0 : readBE16 m o = .ok (b0 ++ b1) := readBE16_of_byteAt (by omega) h0 h1
  have e1 : readBE16 m (o + 2) = .ok (b2 ++ b3) := readBE16_of_byteAt (by omega) h2 h3
  simp [readBE32, e0, e1]

/-- A 16-bit read that faults names one of its bytes. -/
theorem readBE16_error {m : Memory} {o : Nat} {f : Fault} (h : readBE16 m o = .error f) :
    ∃ u, o ≤ u ∧ u < o + 2 ∧
      ((4096 ≤ u ∧ f = .outsidePktRam u) ∨ (u < 4096 ∧ Memory.byteAt m u = none ∧ f = .unwrittenByte u)) := by
  simp only [readBE16] at h
  split at h
  · cases h; exact ⟨o, by omega, by omega, readByte_error ‹_›⟩
  · split at h
    · cases h; exact ⟨o + 1, by omega, by omega, readByte_error ‹_›⟩
    · cases h

/-- A 32-bit read that faults names one of its bytes. -/
theorem readBE32_error {m : Memory} {o : Nat} {f : Fault} (h : readBE32 m o = .error f) :
    ∃ u, o ≤ u ∧ u < o + 4 ∧
      ((4096 ≤ u ∧ f = .outsidePktRam u) ∨ (u < 4096 ∧ Memory.byteAt m u = none ∧ f = .unwrittenByte u)) := by
  simp only [readBE32] at h
  split at h
  · cases h
    obtain ⟨u, h1, h2, h3⟩ := readBE16_error ‹_›
    exact ⟨u, h1, by omega, h3⟩
  · split at h
    · cases h
      obtain ⟨u, h1, h2, h3⟩ := readBE16_error ‹_›
      exact ⟨u, by omega, by omega, h3⟩
    · cases h

/-- A 16-bit read that gives a value read written bytes. -/
theorem readBE16_ok {m : Memory} {o : Nat} {v : Half} (h : readBE16 m o = .ok v) {u : Nat} (h1 : o ≤ u)
    (h2 : u < o + 2) : ∃ b, Memory.byteAt m u = some b := by
  simp only [readBE16] at h
  split at h
  · cases h
  · split at h
    · cases h
    · by_cases e : u = o
      · exact e ▸ ⟨_, (readByte_ok_iff.1 ‹readByte m o = _›).2⟩
      · obtain rfl : u = o + 1 := by omega
        exact ⟨_, (readByte_ok_iff.1 ‹readByte m (o + 1) = _›).2⟩

/-- A 32-bit read that gives a value read written bytes. -/
theorem readBE32_ok {m : Memory} {o : Nat} {v : Word} (h : readBE32 m o = .ok v) {u : Nat} (h1 : o ≤ u)
    (h2 : u < o + 4) : ∃ b, Memory.byteAt m u = some b := by
  simp only [readBE32] at h
  split at h
  · cases h
  · split at h
    · cases h
    · by_cases e : u < o + 2
      · exact readBE16_ok ‹readBE16 m o = _› h1 e
      · exact readBE16_ok ‹readBE16 m (o + 2) = _› (by omega) (by omega)

/-- Splitting a big-endian value into its bytes and reading it back. -/
theorem be16_join (v : Half) : (v.extractLsb' 8 8 ++ v.extractLsb' 0 8 : Half) = v := by
  apply BitVec.eq_of_getLsbD_eq
  intro i hi
  rw [BitVec.getLsbD_append]
  simp only [BitVec.getLsbD_extractLsb']
  split
  · simp_all
  · simp [show 8 + (i - 8) = i by omega, show i - 8 < 8 by omega]

theorem be32_join (v : Word) :
    ((v.extractLsb' 24 8 ++ v.extractLsb' 16 8 : Half) ++ (v.extractLsb' 8 8 ++ v.extractLsb' 0 8 : Half) : Word)
      = v := by
  apply BitVec.eq_of_getLsbD_eq
  intro i hi
  rw [BitVec.getLsbD_append, BitVec.getLsbD_append, BitVec.getLsbD_append]
  simp only [BitVec.getLsbD_extractLsb']
  split
  · split
    · simp_all
    · simp [show 8 + (i - 8) = i by omega, show i - 8 < 8 by omega]
  · split
    · simp [show 16 + (i - 16) = i by omega, show i - 16 < 8 by omega]
    · simp [show 24 + (i - 16 - 8) = i by omega, show i - 16 - 8 < 8 by omega]

end Sys2Proof.Machine
end

