-- ==== Sys2Proof/Laws/Step.lean ====
section
/-! SUPPORT. What a step can do, said once: one case for each effect a completion, a HOST write and a step can have,
and the theorems that every next state is one of them. Later proofs cite these and unfold nothing. -/

namespace Sys2Proof.Machine

/-! ### Completions -/

/-- Everything a command's completion can do when it gives a next state. -/
inductive ExecEffect (s : State) : Instr → State → Prop where
  | nop : ExecEffect s .nop s
  | ckClr : ExecEffect s .ckClr { s with ckAcc := 0#32, accOvf := false }
  | ckAddw (v : Half) : ExecEffect s (.ckAddw v) (accumulate (operandW v) s)
  | ckAddb (v : Byte) : ExecEffect s (.ckAddb v) (accumulate (operandB v) s)
  | ckFin : ExecEffect s .ckFin { s with ckResult := ~~~(fold s.ckAcc) }
  | ckBuf (bytes : List Byte) :
      readBytes s.ram (rangeBase s.latch.range) (rangeLen s.latch.range) = .ok bytes →
      ExecEffect s .ckBuf (loadEngine bytes s)
  | start : s.session = .init →
      ExecEffect s .start
        (offerPacket .synReady (build .syn s.latch.cfg 0#32 (setChanOwn true (openSession s))))
  | txOkWait : s.session = .synReady → s.latch.cfg.timeout ≠ 0#32 →
      ExecEffect s .txOk
        { s with txPend := false, remain := s.latch.cfg.timeout, session := .synSent,
                 history := { s.history with budget := s.latch.cfg.timeout } }
  | txOkExpired : s.session = .synReady → s.latch.cfg.timeout = 0#32 →
      ExecEffect s .txOk
        (enterTerminal .timedOut
          { s with txPend := false, remain := s.latch.cfg.timeout,
                   history := { s.history with budget := s.latch.cfg.timeout } })
  | txOkEstablish : s.session = .ackReady →
      ExecEffect s .txOk (enterTerminal .established { s with txPend := false })
  | txFail : s.session = .synReady ∨ s.session = .ackReady →
      ExecEffect s .txFail (enterTerminal .aborted { s with txPend := false })
  | rxIgnored : s.session ≠ .synSent → ExecEffect s .rxPush s
  | rxRejected : s.session = .synSent → s.latchedMatch = .ok none →
      ExecEffect s .rxPush { s with lastMatch := false }
  | rxAccepted (seq : Word) : s.session = .synSent → s.latchedMatch = .ok (some seq) →
      ExecEffect s .rxPush (acceptSynAck seq s)
  | rxErr (c : Word) : (s.rxErrCnt = 0xFFFFFFFF#32 → c = s.rxErrCnt) →
      (s.rxErrCnt ≠ 0xFFFFFFFF#32 → c = s.rxErrCnt + 1#32) → ExecEffect s .rxErr { s with rxErrCnt := c }
  | matchTest (verdict : Option Word) : s.latchedMatch = .ok verdict →
      ExecEffect s .matchTest { s with lastMatch := verdict.isSome }
  | srst : s.session.idleOrTerminal = true →
      ExecEffect s .srst
        { s with session := .init, txPend := false, lastMatch := false, remain := 0#32, peerSeq := 0#32 }
  | startErr : s.session ≠ .init → ExecEffect s .start (cmdError .state s.latch.cmd s)
  | txOkErr : s.session ≠ .synReady → s.session ≠ .ackReady →
      ExecEffect s .txOk (cmdError .state s.latch.cmd s)
  | txFailErr : s.session ≠ .synReady → s.session ≠ .ackReady →
      ExecEffect s .txFail (cmdError .state s.latch.cmd s)
  | srstErr : s.session.idleOrTerminal = false → ExecEffect s .srst (cmdError .state s.latch.cmd s)

/-- A completion that gives a next state has one of these effects. -/
theorem exec_effect {i : Instr} {s t : State} (h : exec i s = .next t) : ExecEffect s i t := by
  cases i with
  | nop => simp only [exec, execNop, Host.Outcome.next.injEq] at h; subst h; exact .nop
  | ckClr => simp only [exec, execCkClr, Host.Outcome.next.injEq] at h; subst h; exact .ckClr
  | ckAddw v => simp only [exec, execCkAddw, Host.Outcome.next.injEq] at h; subst h; exact .ckAddw v
  | ckAddb v => simp only [exec, execCkAddb, Host.Outcome.next.injEq] at h; subst h; exact .ckAddb v
  | ckFin => simp only [exec, execCkFin, Host.Outcome.next.injEq] at h; subst h; exact .ckFin
  | ckBuf =>
    simp only [exec, execCkBuf] at h
    split at h
    · cases h
    · rename_i bytes hb
      simp only [Host.Outcome.next.injEq] at h
      subst h
      exact .ckBuf bytes hb
  | start =>
    simp only [exec, execStart] at h
    split at h <;> simp only [Host.Outcome.next.injEq] at h <;> subst h
    · exact .start ‹_›
    · exact .startErr ‹_›
  | txOk =>
    simp only [exec, execTxOk] at h
    split at h <;> simp only [Host.Outcome.next.injEq] at h <;> subst h <;> rename_i hs
    · unfold beginWait
      by_cases ht : s.latch.cfg.timeout = 0#32
      · rw [if_pos ht]; exact .txOkExpired hs ht
      · rw [if_neg ht]; exact .txOkWait hs ht
    · exact .txOkEstablish hs
    all_goals exact .txOkErr (by simp [hs]) (by simp [hs])
  | txFail =>
    simp only [exec, execTxFail] at h
    split at h <;> simp only [Host.Outcome.next.injEq] at h <;> subst h <;> rename_i hs
    · exact .txFail hs
    · exact .txFailErr (fun h => hs (.inl h)) (fun h => hs (.inr h))
  | rxPush =>
    simp only [exec, execRxPush] at h
    split at h
    · split at h
      · cases h
      · simp only [Host.Outcome.next.injEq] at h; subst h; exact .rxRejected ‹_› ‹_›
      · simp only [Host.Outcome.next.injEq] at h; subst h; exact .rxAccepted _ ‹_› ‹_›
    · simp only [Host.Outcome.next.injEq] at h; subst h; exact .rxIgnored ‹_›
  | rxErr =>
    simp only [exec, execRxErr] at h
    split at h <;> simp only [Host.Outcome.next.injEq] at h <;> subst h <;> rename_i hc
    · exact .rxErr s.rxErrCnt (fun _ => rfl) (fun h => absurd hc h)
    · exact .rxErr _ (fun h => absurd h hc) (fun _ => rfl)
  | matchTest =>
    simp only [exec, execMatchTest] at h
    split at h
    · cases h
    · simp only [Host.Outcome.next.injEq] at h; subst h; exact .matchTest _ ‹_›
  | srst =>
    simp only [exec, execSrst] at h
    split at h <;> simp only [Host.Outcome.next.injEq] at h <;> subst h <;> rename_i hs
    · exact .srst hs
    · exact .srstErr (by simpa using hs)

/-- The TCP part of `Match` faults only by reading one of its bytes that is not there (42_matcher R162). -/
theorem matchTcp_error {cfg : Cfg} {m : Memory} {t : Nat} {f : Fault} (h : matchTcp cfg m t = .error f) :
    ∃ u, ((t ≤ u ∧ u < t + 12) ∨ u = t + 13) ∧
      ((4096 ≤ u ∧ f = .outsidePktRam u) ∨ (u < 4096 ∧ Memory.byteAt m u = none ∧ f = .unwrittenByte u)) := by
  have pass : ∀ {o n : Nat} {f' : Fault}, (∃ u, o ≤ u ∧ u < o + n ∧ ((4096 ≤ u ∧ f' = .outsidePktRam u) ∨
      (u < 4096 ∧ Memory.byteAt m u = none ∧ f' = .unwrittenByte u))) → t ≤ o → o + n ≤ t + 12 →
      ∃ u, ((t ≤ u ∧ u < t + 12) ∨ u = t + 13) ∧ ((4096 ≤ u ∧ f' = .outsidePktRam u) ∨
        (u < 4096 ∧ Memory.byteAt m u = none ∧ f' = .unwrittenByte u)) :=
    fun ⟨u, h1, h2, h3⟩ h4 h5 => ⟨u, .inl ⟨by omega, by omega⟩, h3⟩
  simp only [matchTcp] at h
  split at h
  · cases h; exact pass (readBE16_error ‹_›) (by omega) (by omega)
  · split at h
    · cases h; exact pass (readBE16_error ‹_›) (by omega) (by omega)
    · split at h
      · cases h; exact pass (readBE32_error ‹_›) (by omega) (by omega)
      · split at h
        · cases h; exact pass (readBE32_error ‹_›) (by omega) (by omega)
        · split at h
          · cases h; exact ⟨_, .inr rfl, readByte_error ‹_›⟩
          · cases h

/-- Where the TCP part of `Match` gives a verdict, every byte it reads is there (42_matcher R162). -/
theorem matchTcp_ok {cfg : Cfg} {m : Memory} {t : Nat} {v : Option Word} (h : matchTcp cfg m t = .ok v) {u : Nat}
    (hu : (t ≤ u ∧ u < t + 12) ∨ u = t + 13) : ∃ b, Memory.byteAt m u = some b := by
  simp only [matchTcp] at h
  split at h
  · cases h
  · split at h
    · cases h
    · split at h
      · cases h
      · split at h
        · cases h
        · split at h
          · cases h
          · rename_i _ _ h0 _ _ h2 _ _ h4 _ _ h8 _ _ h13
            by_cases e : u = t + 13
            · exact e ▸ ⟨_, (readByte_ok_iff.1 h13).2⟩
            by_cases e : u < t + 2
            · exact readBE16_ok h0 (by omega) e
            by_cases e : u < t + 4
            · exact readBE16_ok h2 (by omega) (by omega)
            by_cases e : u < t + 8
            · exact readBE32_ok h4 (by omega) (by omega)
            · exact readBE32_ok h8 (by omega) (by omega)

/-- `Match` reads bytes of the packet only (42_matcher R162). -/
theorem matcherReads_range {m : Memory} {n u : Nat} (h : matcherReads m n u) : 0x040 ≤ u ∧ u < 0x040 + n := by
  obtain ⟨h1, rfl | ⟨b, _, _, _, h2⟩⟩ := h <;> omega

/-- `Match` faults only by reading one of its bytes that is not there (42_matcher R162, R163). -/
theorem matchPacket_error {cfg : Cfg} {n : Nat} {m : Memory} {f : Fault}
    (h : matchPacket cfg n m = .error f) :
    ∃ u, matcherReads m n u ∧
      ((4096 ≤ u ∧ f = .outsidePktRam u) ∨ (u < 4096 ∧ Memory.byteAt m u = none ∧ f = .unwrittenByte u)) := by
  simp only [matchPacket] at h
  split at h
  · cases h
  · split at h
    · cases h; exact ⟨_, ⟨by omega, .inl rfl⟩, readByte_error ‹_›⟩
    · split at h
      · cases h
      · split at h
        · cases h
        · obtain ⟨u, h1, h2⟩ := matchTcp_error h
          exact ⟨u, ⟨by omega, .inr ⟨_, (readByte_ok_iff.1 ‹_›).2, by omega, by omega, h1⟩⟩, h2⟩

/-- Where `Match` gives a verdict, every byte it reads is there (42_matcher R162, R163). -/
theorem matchPacket_ok {cfg : Cfg} {n : Nat} {m : Memory} {v : Option Word} (h : matchPacket cfg n m = .ok v)
    {u : Nat} (hu : matcherReads m n u) : ∃ b, Memory.byteAt m u = some b := by
  obtain ⟨hn, hu⟩ := hu
  simp only [matchPacket, if_neg (show ¬ n < 40 by omega)] at h
  split at h
  · cases h
  · rename_i b hb
    have hb : Memory.byteAt m 0x040 = some b := (readByte_ok_iff.1 hb).2
    rcases hu with rfl | ⟨c, hc, h5, h20, hu⟩
    · exact ⟨b, hb⟩
    · cases hb.symm.trans hc
      rw [if_neg (by omega), if_neg (by omega)] at h
      exact matchTcp_ok h hu

/-- No command is refused. -/
theorem exec_not_refused (i : Instr) (s : State) (r : Refusal) : exec i s ≠ .refused r := by
  cases i <;> simp only [exec, execNop, execCkClr, execCkAddw, execCkAddb, execCkFin, execCkBuf, execStart,
    execTxOk, execTxFail, execRxPush, execRxErr, execMatchTest, execSrst] <;> (repeat' split) <;> simp

/-- A command faults only by reading a byte that is not there, one of those its completion reads. -/
theorem exec_fault {i : Instr} {s : State} {f : Fault} (h : exec i s = .fault f) :
    ∃ u, commandReads s i u ∧ ((4096 ≤ u ∧ f = .outsidePktRam u) ∨
      (u < 4096 ∧ Memory.byteAt s.ram u = none ∧ f = .unwrittenByte u)) := by
  cases i with
  | ckBuf =>
    simp only [exec, execCkBuf] at h
    split at h
    · cases h
      obtain ⟨u, h1, h2, h3⟩ := readBytes_error ‹_›
      exact ⟨u, .inl ⟨rfl, h1, h2⟩, h3⟩
    · cases h
  | rxPush =>
    simp only [exec, execRxPush] at h
    split at h
    · split at h
      · cases h
        obtain ⟨u, h1, h2⟩ := matchPacket_error ‹_›
        exact ⟨u, .inr ⟨.inr ⟨rfl, ‹_›⟩, h1⟩, h2⟩
      · cases h
      · cases h
    · cases h
  | matchTest =>
    simp only [exec, execMatchTest] at h
    split at h
    · cases h
      obtain ⟨u, h1, h2⟩ := matchPacket_error ‹_›
      exact ⟨u, .inr ⟨.inl rfl, h1⟩, h2⟩
    · cases h
  | nop | ckClr | ckAddw | ckAddb | ckFin => cases h
  | start | txFail | rxErr | srst =>
    simp only [exec, execStart, execTxFail, execRxErr, execSrst] at h
    split at h <;> cases h
  | txOk =>
    simp only [exec, execTxOk] at h
    split at h <;> cases h

/-- Where a command's completion goes on, every byte it reads is there (70_reset R241). -/
theorem exec_reads {i : Instr} {s t : State} (h : exec i s = .next t) {u : Nat} (hu : commandReads s i u) :
    ∃ b, Memory.byteAt s.ram u = some b := by
  rcases hu with ⟨rfl, h1, h2⟩ | ⟨rfl | ⟨rfl, hs⟩, hu⟩
  · cases exec_effect h with
    | ckBuf bytes hb =>
      obtain ⟨hl, hr⟩ := readBytes_ok hb
      obtain ⟨d, rfl⟩ := Nat.exists_eq_add_of_le h1
      exact ⟨_, (hr d (by omega)).2⟩
  · cases exec_effect h with
    | matchTest v hv => exact matchPacket_ok hv hu
  · cases exec_effect h with
    | rxIgnored hn => exact absurd hs hn
    | rxRejected _ hv => exact matchPacket_ok hv hu
    | rxAccepted seq _ hv => exact matchPacket_ok hv hu

/-! ### HOST accesses -/

/-- The register at an offset below 0x050 is the one whose offset it is. -/
theorem atOffset_some {o : Nat} {r : Reg} (h : Reg.atOffset o = some r) : o = r.offset.toNat := by
  have := List.find?_some h
  simpa using (of_decide_eq_true this).symm

theorem atOffset_offset (r : Reg) : Reg.atOffset r.offset.toNat = some r := by
  cases r <;> rfl

/-- Everything a HOST write can do. -/
inductive HostWriteEffect (s : State) (addr : Word) (size : AccessSize) (data : Word) : State → Prop where
  | busError : accessOk addr size = false → HostWriteEffect s addr size data (answer .writeErr s)
  | register (r : Reg) : addr = r.offset → size = .word →
      HostWriteEffect s addr size data (answer .written (writeReg r data s))
  | reserved : addr.toNat < 0x1000 → HostWriteEffect s addr size data (answer .written s)
  | window (o : Nat) : addr.toNat = 0x1000 + o → o + size.bytes ≤ 4096 →
      HostWriteEffect s addr size data (answer .written (writeWindow o (busLanes size.bytes data) s))

theorem busLanes_length (n : Nat) (d : Word) : (busLanes n d).length = n := by
  induction n generalizing d with
  | zero => rfl
  | succ n ih => simp [busLanes, ih]

/-- A legal access below the window is a word access; one in the window fits it (20_memory R65, R66). -/
theorem accessOk_register {addr : Word} {size : AccessSize} (h : accessOk addr size = true)
    (hr : addr.toNat < 0x1000) : size = .word := by
  simp only [accessOk, Config.windowBase, hr, if_true, Bool.and_eq_true, decide_eq_true_eq] at h
  exact h.2

theorem accessOk_window {addr : Word} {size : AccessSize} (h : accessOk addr size = true)
    (hr : ¬ addr.toNat < 0x1000) : addr.toNat - 0x1000 + size.bytes ≤ 4096 := by
  simp only [accessOk, Config.windowBase, Config.apertureEnd, hr, if_false, Bool.and_eq_true,
    decide_eq_true_eq] at h
  obtain ⟨h1, h2⟩ := h
  have h2 : addr.toNat < 0x2000 := h2
  cases size <;> simp only [AccessSize.bytes] at h1 ⊢ <;> omega

theorem hostWrite_effect (addr : Word) (size : AccessSize) (data : Word) (s : State) :
    HostWriteEffect s addr size data (hostWrite addr size data s) := by
  unfold hostWrite
  by_cases hok : accessOk addr size = true
  · rw [if_pos hok]
    by_cases hr : addr.toNat < 0x1000
    · rw [if_pos (by simpa [inRegisters, Config.windowBase] using hr)]
      unfold writeRegisterAt
      cases ho : Reg.atOffset addr.toNat with
      | none => exact .reserved hr
      | some r =>
        exact .register r (BitVec.eq_of_toNat_eq (atOffset_some ho)) (accessOk_register hok hr)
    · rw [if_neg (by simpa [inRegisters, Config.windowBase] using hr)]
      have ho : windowOffset addr = addr.toNat - 0x1000 := rfl
      exact .window (windowOffset addr) (by omega) (ho ▸ accessOk_window hok hr)
  · rw [if_neg hok]
    exact .busError (by simpa using hok)

/-- A HOST read that gives a next state changes the bus response and the count of free draws (20_memory R68). -/
theorem hostRead_effect {addr : Word} {size : AccessSize} {s t : State} (h : hostRead addr size s = .next t) :
    ∃ r d, t = answer r { s with draws := d } := by
  unfold hostRead at h
  split at h
  · split at h
    · simp only [Host.Outcome.next.injEq] at h; exact ⟨_, s.draws, h.symm⟩
    · split at h
      · cases h
      · simp only [Host.Outcome.next.injEq] at h; exact ⟨_, _, h.symm⟩
  · simp only [Host.Outcome.next.injEq] at h; exact ⟨_, s.draws, h.symm⟩

theorem hostRead_not_refused (addr : Word) (size : AccessSize) (s : State) (r : Refusal) :
    hostRead addr size s ≠ .refused r := by
  unfold hostRead
  split
  · split
    · simp
    · split <;> simp
  · simp

/-- A window read that faults names an unwritten byte of its range. -/
theorem readWindow_error {s : State} {k o n : Nat} {f : Fault} (h : readWindow s k o n = .error f) :
    ∃ u, o ≤ u ∧ u < o + n ∧
      ((4096 ≤ u ∧ f = .outsidePktRam u) ∨ (u < 4096 ∧ Memory.byteAt s.ram u = none ∧ f = .unwrittenByte u)) := by
  induction n generalizing k o with
  | zero => cases h
  | succ n ih =>
    simp only [readWindow] at h
    split at h
    · simp only [Except.error.injEq] at h; subst h
      exact ⟨o, Nat.le_refl _, by omega, readByte_error ‹_›⟩
    · split at h
      · simp only [Except.error.injEq] at h; subst h
        obtain ⟨u, h1, h2, h3⟩ := ih ‹_›
        exact ⟨u, by omega, by omega, h3⟩
      · cases h

/-- Where a window read gives bytes, every byte of its range is there (70_reset R241). -/
theorem readWindow_ok {s : State} {k o n : Nat} {bs : List Byte} (h : readWindow s k o n = .ok bs) {u : Nat}
    (h1 : o ≤ u) (h2 : u < o + n) : ∃ b, Memory.byteAt s.ram u = some b := by
  induction n generalizing k o bs with
  | zero => omega
  | succ n ih =>
    simp only [readWindow] at h
    split at h
    · cases h
    · split at h
      · cases h
      · by_cases e : u = o
        · exact e ▸ ⟨_, (readByte_ok_iff.1 ‹_›).2⟩
        · exact ih ‹_› (by omega) (by omega)

/-- A HOST read faults only by reading an unwritten byte of the window (20_memory R65, 70_reset R241). -/
theorem hostRead_fault {addr : Word} {size : AccessSize} {s : State} {f : Fault}
    (h : hostRead addr size s = .fault f) :
    (0x1000 ≤ addr.toNat ∧ addr.toNat ≤ 0x1FFF ∧ addr.toNat % size.bytes = 0) ∧
      ∃ u, addr.toNat - 0x1000 ≤ u ∧ u < addr.toNat - 0x1000 + size.bytes ∧ u < 4096 ∧
        Memory.byteAt s.ram u = none ∧ f = .unwrittenByte u := by
  unfold hostRead at h
  by_cases hok : accessOk addr size = true
  · rw [if_pos hok] at h
    by_cases hr : addr.toNat < 0x1000
    · rw [if_pos (by simpa [inRegisters, Config.windowBase] using hr)] at h; cases h
    · rw [if_neg (by simpa [inRegisters, Config.windowBase] using hr)] at h
      have hw := accessOk_window hok hr
      have ho : windowOffset addr = addr.toNat - 0x1000 := rfl
      simp only [accessOk, Bool.and_eq_true, decide_eq_true_eq] at hok
      split at h
      · cases h
        obtain ⟨u, h1, h2, h3⟩ := readWindow_error ‹_›
        refine ⟨⟨by omega, ?_, hok.1⟩, u, ho ▸ h1, ho ▸ h2, ?_⟩
        · cases size <;> simp only [AccessSize.bytes] at hw <;> omega
        · rcases h3 with ⟨h4, _⟩ | h4
          · omega
          · exact h4
      · cases h
  · rw [if_neg hok] at h; cases h

/-- Where a HOST read of the window goes on, every byte of its range is there (70_reset R241). -/
theorem hostRead_reads {addr : Word} {size : AccessSize} {s t : State} (h : hostRead addr size s = .next t)
    (ha : 0x1000 ≤ addr.toNat) (hb : addr.toNat ≤ 0x1FFF) (hm : addr.toNat % size.bytes = 0) {u : Nat}
    (h1 : addr.toNat - 0x1000 ≤ u) (h2 : u < addr.toNat - 0x1000 + size.bytes) :
    ∃ b, Memory.byteAt s.ram u = some b := by
  have hok : accessOk addr size = true := by
    simp only [accessOk, Config.windowBase, Config.apertureEnd, hm, if_neg (show ¬ addr.toNat < 0x1000 by omega)]
    simp
    omega
  rw [hostRead, if_pos hok, if_neg (by simp [inRegisters, Config.windowBase]; omega)] at h
  split at h
  · cases h
  · exact readWindow_ok ‹_› h1 h2

@[simp] theorem writeReg_cmd (w : Word) (s : State) : writeReg .cmd w s = issue w s := rfl

/-- A word access to a register is answered with what the register reads. -/
@[simp] theorem hostRead_register (r : Reg) (s : State) :
    hostRead r.offset .word s = .next (answer (.data (readReg r s)) s) := by
  cases r <;> rfl

@[simp] theorem hostWrite_register (r : Reg) (w : Word) (s : State) :
    hostWrite r.offset .word w s = answer .written (writeReg r w s) := by
  cases r <;> rfl

/-- Issue records an error or latches the command (43_control R191). -/
theorem issue_cases (w : Word) (s : State) :
    (∃ c, issue w s = cmdError c w s) ∨
      (s.busy = false ∧ issue w s = latchCommand w s ∧ ∃ i, decode w = .ok i ∧ rangeError i s = false) := by
  unfold issue
  cases hb : s.busy with
  | true => exact .inl ⟨_, rfl⟩
  | false =>
    cases hd : decode w with
    | error e => exact .inl ⟨_, rfl⟩
    | ok i =>
      cases hr : rangeError i s with
      | true => exact .inl ⟨.range, by simp [hr]⟩
      | false => exact .inr ⟨rfl, by simp [hr], i, rfl, hr⟩

/-- A command that passes issue's range check is in range in the latch (43_control R191). -/
theorem latchCommand_inRange {w : Word} {i : Instr} {s : State} (h : rangeError i s = false) :
    (latchCommand w s).latch.inRange i = true := by
  cases i <;> simp_all [rangeError, Latch.inRange]

/-! ### The step -/

/-- Everything a step can do when it gives a next state. `s'` is `afterTaking s`. -/
inductive StepEffect (s : State) : State → Prop where
  /-- Nothing happens: rst is asserted, BLOCK has nothing to complete, or rst stays deasserted. -/
  | nothing : StepEffect s (afterTaking s)
  | tick : s.rst = false → s.nextEvent = .tick → StepEffect s (tick (afterTaking s))
  | complete (i : Instr) (u : State) : s.rst = false → s.nextEvent = .block → s.busy = true →
      decode s.latch.cmd = .ok i → ExecEffect (afterTaking s) i u → StepEffect s (retire u)
  | read (r : BusResp) (d : Nat) : s.rst = false → StepEffect s (answer r { afterTaking s with draws := d })
  | pollAgain (r : BusResp) (d : Nat) (l : List Event) : s.rst = false →
      StepEffect s { answer r { afterTaking s with draws := d } with schedule := l }
  | write (addr : Word) (size : AccessSize) (data : Word) (t : State) : s.rst = false →
      s.nextEvent = .write addr size data → HostWriteEffect (afterTaking s) addr size data t → StepEffect s t
  | reset (level : Bool) : s.nextEvent = .rst level → (level = true ∨ s.rst = true) →
      StepEffect s { State.reset with rst := level, draws := s.draws, schedule := s.schedule.tail }

/-- The completion that gives a next state. -/
theorem complete_next {s t : State} (h : complete s = .next t) :
    (s.busy = false ∧ t = s) ∨
      ∃ i u, s.busy = true ∧ decode s.latch.cmd = .ok i ∧ footprintHazard i s = false ∧
        exec i s = .next u ∧ t = retire u := by
  unfold complete at h
  split at h
  · split at h
    · cases h
    · split at h
      · cases h
      · split at h
        · rename_i hb _ _ hd hf _ _ hx
          simp only [Host.Outcome.next.injEq] at h
          exact .inr ⟨_, _, hb, hd, by simpa using hf, hx, h.symm⟩
        · cases h
        · cases h
  · rename_i hb
    simp only [Host.Outcome.next.injEq] at h
    exact .inl ⟨by simpa using hb, h.symm⟩

/-- With no HOST write recorded there is no hazard (70_reset R253). -/
theorem footprintHazard_of_nil (i : Instr) {s : State} (h : s.hostWrites = []) : footprintHazard i s = false := by
  simp [footprintHazard, h]

/-- The step runs the next event on the state it is taken off, an absent one being a BLOCK turn. -/
theorem step_eq (s : State) : step s = runEvent s.nextEvent (afterTaking s) := by
  unfold step State.nextEvent afterTaking
  cases hs : s.schedule with
  | nil =>
    have : ({ s with schedule := [] } : State) = s := by cases s; simp only at hs; subst hs; rfl
    simp only [List.tail_nil, this, runUnscheduled, runEvent, runEventInReset, runEventAwake]
  | cons e rest => rfl


@[simp] theorem footprintHazard_afterTaking (i : Instr) (s : State) :
    footprintHazard i (afterTaking s) = footprintHazard i s := by cases i <;> rfl

/-- Under rst only the pin has an effect (70_reset R240). -/
theorem step_in_reset {s : State} (hr : s.rst = true) (he : ∀ level, s.nextEvent ≠ .rst level) :
    step s = .next (afterTaking s) := by
  rw [step_eq, runEvent, if_pos (by simpa using hr)]
  cases hn : s.nextEvent with
  | rst level => exact absurd hn (he level)
  | _ => rfl

theorem step_rst {s : State} {level : Bool} (he : s.nextEvent = .rst level) :
    step s = .next (driveReset level (afterTaking s)) := by
  rw [step_eq, runEvent, he]
  split <;> rfl

theorem step_awake {s : State} (hr : s.rst = false) :
    step s = runEventAwake s.nextEvent (afterTaking s) := by
  rw [step_eq, runEvent, if_neg (by simpa using hr)]

/-- A step that gives a next state has one of these effects. -/
theorem step_effect {s t : State} (h : step s = .next t) : StepEffect s t := by
  cases he : s.nextEvent with
  | rst level =>
    rw [step_rst he] at h
    simp only [Host.Outcome.next.injEq] at h
    subst h
    unfold driveReset
    split
    · rename_i hl
      exact .reset level he (by simpa using hl)
    · exact .nothing
  | read addr size =>
    cases hr : s.rst with
    | true => rw [step_in_reset hr (by simp [he])] at h; cases h; exact .nothing
    | false =>
      rw [step_awake hr, he] at h
      obtain ⟨r, d, rfl⟩ := hostRead_effect h
      exact .read r d hr
  | write addr size data =>
    cases hr : s.rst with
    | true => rw [step_in_reset hr (by simp [he])] at h; cases h; exact .nothing
    | false =>
      rw [step_awake hr, he] at h
      simp only [runEventAwake, Host.Outcome.next.injEq] at h
      subst h
      exact .write addr size data _ hr he (hostWrite_effect _ _ _ _)
  | poll addr mask value =>
    cases hr : s.rst with
    | true => rw [step_in_reset hr (by simp [he])] at h; cases h; exact .nothing
    | false =>
      rw [step_awake hr, he] at h
      simp only [runEventAwake, pollOnce] at h
      split at h
      · obtain ⟨r, d, rfl⟩ := hostRead_effect ‹_›
        split at h <;> simp only [Host.Outcome.next.injEq] at h <;> subst h
        · exact .read r d hr
        · exact .pollAgain r d _ hr
      · cases h
      · cases h
  | tick =>
    cases hr : s.rst with
    | true => rw [step_in_reset hr (by simp [he])] at h; cases h; exact .nothing
    | false =>
      rw [step_awake hr, he] at h
      simp only [runEventAwake, Host.Outcome.next.injEq] at h
      subst h
      exact .tick hr he
  | block =>
    cases hr : s.rst with
    | true => rw [step_in_reset hr (by simp [he])] at h; cases h; exact .nothing
    | false =>
      rw [step_awake hr, he] at h
      rcases complete_next h with ⟨_, rfl⟩ | ⟨i, u, hb, hd, _, hx, rfl⟩
      · exact .nothing
      · exact .complete i u hr he hb hd (exec_effect hx)

/-! ### Runs -/

theorem core_run_succ {M : Host.Core} {n : Nat} {s t : M.State} (h : M.step s = .next t) :
    Host.Core.run M (n + 1) s = Host.Core.run M n t := by
  rw [Host.Core.run, h]

theorem core_run_cases {M : Host.Core} {n : Nat} {s t : M.State} (h : Host.Core.run M (n + 1) s = .next t) :
    ∃ u, M.step s = .next u ∧ Host.Core.run M n u = .next t := by
  rw [Host.Core.run] at h
  split at h
  · exact ⟨_, ‹_›, h⟩
  · cases h
  · cases h

/-- A run whose first step goes on. -/
theorem runSteps_succ {n : Nat} {s t : State} (h : step s = .next t) : runSteps (n + 1) s = runSteps n t :=
  core_run_succ (M := core) h

/-- The first step of a run that goes on to the end. -/
theorem runSteps_cases {n : Nat} {s t : State} (h : runSteps (n + 1) s = .next t) :
    ∃ u, step s = .next u ∧ runSteps n u = .next t :=
  core_run_cases (M := core) h

/-- A property that every step keeps holds after a run. -/
theorem runSteps_keeps {P : State → Prop} (keep : ∀ s t, P s → step s = .next t → P t) :
    ∀ (n : Nat) (s t : State), P s → runSteps n s = .next t → P t
  | 0, s, t, hs, h => by
    have e : (Host.Outcome.next s : Host.Outcome State Fault Refusal) = .next t := h
    simp only [Host.Outcome.next.injEq] at e
    exact e ▸ hs
  | n + 1, s, t, hs, h => by
    obtain ⟨u, h1, h2⟩ := runSteps_cases h
    exact runSteps_keeps keep n u t (keep s u hs h1) h2

end Sys2Proof.Machine
end

