-- ==== Sys2Proof/Laws/Liveness.lean ====
section
/-! SUPPORT. 70_reset R263 (c): a session started from INIT reaches a terminal state, in every infinite run in which
BLOCK is fair, the ticks go on and the HOST reports its transmissions (Safety.lean). What one move does to a running
session is said once; the run is then two descents, of the session and of REMAIN. -/

namespace Sys2Proof.Machine

/-- A measure that never rises from `m` on cannot drop again and again. -/
theorem no_endless_drop {f : Nat → Nat} {m : Nat} (mono : ∀ k, m ≤ k → f (k + 1) ≤ f k)
    (drop : ∀ k, m ≤ k → ∃ j, k ≤ j ∧ f (j + 1) < f j) : False := by
  have anti : ∀ d k, m ≤ k → f (k + d) ≤ f k := by
    intro d
    induction d with
    | zero => exact fun k _ => Nat.le_refl _
    | succ d ih => exact fun k hk => Nat.le_trans (mono (k + d) (by omega)) (ih k hk)
  have sink : ∀ b, ∃ k, m ≤ k ∧ f k + b ≤ f m := by
    intro b
    induction b with
    | zero => exact ⟨m, Nat.le_refl _, Nat.le_refl _⟩
    | succ b ih =>
      obtain ⟨k, hk, hb⟩ := ih
      obtain ⟨j, hj, hd⟩ := drop k hk
      have := anti (j - k) k hk
      rw [show k + (j - k) = j by omega] at this
      exact ⟨j + 1, by omega, by omega⟩
  obtain ⟨k, _, hb⟩ := sink (f m + 1)
  omega

/-- How far a session still is from its end (43_control R196). -/
def Session.distance : Session → Nat
  | .init => 0
  | .synReady => 3
  | .synSent => 2
  | .ackReady => 1
  | .established => 0
  | .timedOut => 0
  | .aborted => 0

/-- The session is running: SYN_READY, SYN_SENT or ACK_READY. -/
def Session.running (x : Session) : Prop := x = .synReady ∨ x = .synSent ∨ x = .ackReady

/-- What a running session rests on (10_state R49 b, 42_matcher R175). -/
structure State.Live (s : State) : Prop where
  awake : s.rst = false
  offered : s.session.offersPacket = true → s.txPend = true
  waiting : s.session = .synSent → s.remain ≠ 0#32

@[simp] theorem facing_nextEvent (s : State) (e : Event) : (s.facing e).nextEvent = e := rfl
@[simp] theorem facing_rst (s : State) (e : Event) : (s.facing e).rst = s.rst := rfl
@[simp] theorem facing_busy (s : State) (e : Event) : (s.facing e).busy = s.busy := rfl
@[simp] theorem facing_session (s : State) (e : Event) : (s.facing e).session = s.session := rfl
@[simp] theorem facing_txPend (s : State) (e : Event) : (s.facing e).txPend = s.txPend := rfl
@[simp] theorem facing_remain (s : State) (e : Event) : (s.facing e).remain = s.remain := rfl
@[simp] theorem facing_latch (s : State) (e : Event) : (s.facing e).latch = s.latch := rfl

/-! ### One move -/

/-- A HOST write touches neither the session nor what it waits for, nor a command that is pending. -/
theorem hostWrite_keeps {s t : State} {addr : Word} {size : AccessSize} {data : Word}
    (h : HostWriteEffect s addr size data t) :
    t.session = s.session ∧ t.txPend = s.txPend ∧ t.remain = s.remain ∧ t.rst = s.rst ∧
      (s.busy = true → t.busy = true ∧ t.latch = s.latch) := by
  cases h with
  | busError => simp
  | reserved => simp
  | window => simp
  | register r =>
    cases r <;> simp [writeReg]
    rcases issue_cases data s with ⟨c, hc⟩ | ⟨hb, hc, _⟩
    · simp [hc]
    · simp [hc, hb]

/-- A tick on a running session: REMAIN falls by one, or the session times out (42_matcher R175). -/
theorem tick_running {s : State} (hs : s.Live) :
    (s.session ≠ .synSent ∧ tick s = s) ∨
      (s.session = .synSent ∧ (tick s).session = .timedOut ∧ (tick s).rst = s.rst) ∨
      (s.session = .synSent ∧ (tick s).session = .synSent ∧ (tick s).rst = s.rst ∧ (tick s).remain ≠ 0#32 ∧
        (tick s).remain.toNat < s.remain.toNat) := by
  by_cases hx : s.session = .synSent
  · have h0 := hs.waiting hx
    by_cases hz : s.remain - 1#32 = 0#32
    · exact .inr (.inl (by simp [tick, hx, hz]))
    · refine .inr (.inr ⟨hx, by simp [tick, hx, hz], by simp [tick, hx, hz], by simp [tick, hx, hz], ?_⟩)
      simp only [tick, hx, hz, if_true, if_false]
      bv_omega
  · exact .inl ⟨hx, by simp [tick, hx]⟩

/-- What a move other than rst does to a running session: it stays where it is, REMAIN not rising, or it goes on; it
never goes back to INIT. -/
theorem move_running {s t : State} {e : Event} (h : step (s.facing e) = .next t) (hs : s.Live)
    (hr : s.session.running) (he : ∀ level, e ≠ .rst level) :
    t.Live ∧ (t.session.running ∨ t.session.terminal = true) ∧
      ((t.session = s.session ∧ t.remain.toNat ≤ s.remain.toNat) ∨ t.session.distance < s.session.distance) := by
  have same : ∀ u : State, u.session = s.session → u.txPend = s.txPend → u.remain = s.remain → u.rst = s.rst →
      u.Live ∧ (u.session.running ∨ u.session.terminal = true) ∧
        ((u.session = s.session ∧ u.remain.toNat ≤ s.remain.toNat) ∨ u.session.distance < s.session.distance) :=
    fun u h1 h2 h3 h4 =>
      ⟨⟨h4.trans hs.awake, fun hu => h2.trans (hs.offered (h1 ▸ hu)), fun hu => h3 ▸ hs.waiting (h1 ▸ hu)⟩,
        .inl (h1 ▸ hr), .inl ⟨h1, Nat.le_of_eq (congrArg BitVec.toNat h3)⟩⟩
  cases step_effect h with
  | nothing => exact same _ rfl rfl rfl rfl
  | read => exact same _ rfl rfl rfl rfl
  | pollAgain => exact same _ rfl rfl rfl rfl
  | reset level hn => exact absurd hn (he level)
  | write addr size data t _ _ hw =>
    obtain ⟨h1, h2, h3, h4, _⟩ := hostWrite_keeps hw
    exact same _ h1 h2 h3 h4
  | tick =>
    have hl : (afterTaking (s.facing e)).Live := ⟨hs.awake, hs.offered, hs.waiting⟩
    rcases tick_running hl with ⟨_, h1⟩ | ⟨h0, h1, h2⟩ | ⟨h0, h1, h2, h3, h4⟩
    · rw [h1]; exact same _ rfl rfl rfl rfl
    · have h0 : s.session = .synSent := h0
      exact ⟨⟨h2.trans hs.awake, by simp [h1, Session.offersPacket], by simp [h1]⟩, by simp [h1, Session.terminal],
        by simp [h1, h0, Session.distance]⟩
    · exact ⟨⟨h2.trans hs.awake, by simp [h1, Session.offersPacket], fun _ => h3⟩, by simp [h1, Session.running],
        .inl ⟨h1.trans h0.symm, Nat.le_of_lt h4⟩⟩
  | complete i u _ _ _ _ hx =>
    have ha : s.rst = false := hs.awake
    cases hx with
    | start hi =>
      have hi : s.session = .init := hi
      simp [hi, Session.running] at hr
    | srst hi =>
      have hi : s.session.idleOrTerminal = true := hi
      rcases hr with hr | hr | hr <;> simp [hr, Session.idleOrTerminal] at hi
    | txOkWait hi ht =>
      have hi : s.session = .synReady := hi
      exact ⟨⟨ha, by simp [Session.offersPacket], fun _ => ht⟩, by simp [Session.running],
        by simp [hi, Session.distance]⟩
    | txOkExpired hi ht =>
      have hi : s.session = .synReady := hi
      exact ⟨⟨by simpa using ha, by simp [Session.offersPacket], by simp⟩, by simp [Session.terminal],
        by simp [hi, Session.distance]⟩
    | txOkEstablish hi =>
      have hi : s.session = .ackReady := hi
      exact ⟨⟨by simpa using ha, by simp [Session.offersPacket], by simp⟩, by simp [Session.terminal],
        by simp [hi, Session.distance]⟩
    | txFail hi =>
      have hi : s.session = .synReady ∨ s.session = .ackReady := hi
      refine ⟨⟨by simpa using ha, by simp [Session.offersPacket], by simp⟩, by simp [Session.terminal], ?_⟩
      rcases hi with hi | hi <;> simp [hi, Session.distance]
    | rxAccepted seq hi =>
      have hi : s.session = .synSent := hi
      exact ⟨⟨by simpa using ha, by simp, by simp⟩, by simp [Session.running], by simp [hi, Session.distance]⟩
    | _ => exact same _ rfl rfl rfl rfl

/-- A tick in SYN_SENT ends the wait or brings its end nearer (42_matcher R175). -/
theorem move_tick {s t : State} (h : step (s.facing .tick) = .next t) (hs : s.Live) (hw : s.session = .synSent) :
    t.session = .timedOut ∨ t.remain.toNat < s.remain.toNat := by
  have hx : t = tick (afterTaking (s.facing .tick)) := by
    rw [step_awake (s := s.facing .tick) hs.awake] at h
    exact (Host.Outcome.next.inj h).symm
  have hl : (afterTaking (s.facing .tick)).Live := ⟨hs.awake, hs.offered, hs.waiting⟩
  subst hx
  rcases tick_running hl with ⟨h1, _⟩ | ⟨_, h1, _⟩ | ⟨_, _, _, _, h1⟩
  · exact absurd hw h1
  · exact .inl h1
  · exact .inr h1

/-- A command that reports a transmission (41_builder R142, R144). -/
def Instr.reports (i : Instr) : Prop := i = .txOk ∨ i = .txFail

/-- A report of the packet waiting is pending. -/
def State.reporting (s : State) : Prop := s.busy = true ∧ ∃ i, Instr.reports i ∧ decode s.latch.cmd = .ok i

/-- A move that issues a command is a write that reaches CMD. -/
theorem command_write {e : Event} {i : Instr} (hc : e.command = some i) (s : State) :
    ∃ data, decode data = .ok i ∧ runEventAwake e s = .next (answer .written (issue data s)) := by
  cases e with
  | write addr size data =>
    simp only [Event.command] at hc
    split at hc
    · rename_i hw
      split at hc <;> cases hc
      have hw := of_decide_eq_true hw
      simp only [Event.writesTo] at hw
      split at hw
      · rename_i ha
        simp only [Bool.and_eq_true] at ha
        exact ⟨data, ‹_›, by simp [runEventAwake, hostWrite, ha.1, ha.2, writeRegisterAt, hw]⟩
      · cases hw
    · cases hc
  | _ => cases hc

/-- Issuing a report with BUSY = 0 leaves it pending (43_control R191). -/
theorem move_issues {s t : State} {e : Event} {i : Instr} (h : step (s.facing e) = .next t) (hr : s.rst = false)
    (hb : s.busy = false) (hc : e.command = some i) (hi : Instr.reports i) : t.reporting := by
  obtain ⟨data, hd, hx⟩ := command_write hc (afterTaking (s.facing e))
  have hn : rangeError i (afterTaking (s.facing e)) = false := by rcases hi with rfl | rfl <;> rfl
  rw [step_awake (s := s.facing e) hr, facing_nextEvent, hx] at h
  cases h
  refine ⟨?_, i, hi, ?_⟩ <;> simp [issue, hb, hd, hn]

theorem offersPacket_iff {x : Session} : x.offersPacket = true ↔ x = .synReady ∨ x = .ackReady := by
  cases x <;> simp [Session.offersPacket]

/-- A pending report of a waiting packet stays pending, or its completion ends the state (41_builder R142, R144). -/
theorem move_reporting {s t : State} {e : Event} (h : step (s.facing e) = .next t) (hs : s.Live)
    (ho : s.session.offersPacket = true) (hp : s.reporting) (he : ∀ level, e ≠ .rst level) :
    (e ≠ .block ∧ t.reporting) ∨ t.session ≠ s.session := by
  obtain ⟨hb, i, hi, hd⟩ := hp
  by_cases hn : e = .block
  · right
    subst hn
    rw [step_awake (by simpa using hs.awake)] at h
    rcases complete_next h with ⟨hf, _⟩ | ⟨j, u, _, hj, _, hx, rfl⟩
    · simp [hb] at hf
    · have hij : i = j := by simpa [hd] using hj
      subst hij
      clear h
      have he := exec_effect hx
      clear hx
      rcases hi with rfl | rfl <;> rcases offersPacket_iff.1 ho with ho | ho <;> cases he <;> simp_all
  · refine .inl ⟨hn, ?_⟩
    have keep : ∀ u : State, u.busy = s.busy → u.latch = s.latch → u.reporting :=
      fun u h1 h2 => ⟨h1.trans hb, i, hi, h2 ▸ hd⟩
    cases step_effect h with
    | nothing => exact keep _ rfl rfl
    | read => exact keep _ rfl rfl
    | pollAgain => exact keep _ rfl rfl
    | reset level hl => exact absurd hl (he level)
    | complete _ _ _ hl => exact absurd hl hn
    | tick =>
      refine keep _ ?_ ?_ <;> unfold tick <;> split <;> (try dsimp only) <;> (try split) <;> simp
    | write addr size data t _ _ hw =>
      obtain ⟨_, _, _, _, h1⟩ := hostWrite_keeps hw
      exact keep _ ((h1 hb).1.trans hb.symm) (h1 hb).2

/-- A START in INIT begins a live session (41_builder R140). -/
theorem move_starts {s t : State} {e : Event} (h : step (s.facing e) = .next t) (hs : s.session = .init)
    (ht : t.session = .synReady) : t.Live := by
  cases step_effect h with
  | nothing => simp [hs] at ht
  | read => simp [hs] at ht
  | pollAgain => simp [hs] at ht
  | reset => cases ht
  | tick => simp [tick, hs] at ht
  | write _ _ _ _ _ _ hw =>
    rw [(hostWrite_keeps hw).1] at ht
    simp [hs] at ht
  | complete i u hr _ _ _ hx =>
    cases hx with
    | start => exact ⟨by simpa using hr, by simp, by simp⟩
    | _ => simp_all

/-! ### The run -/

/-- A packet does not wait for ever (70_reset R261, R263 a): the HOST reports its transmission and BLOCK completes the
report. -/
theorem offer_ends {moves : Nat → Event} {states : Nat → State} (run : isRun moves states)
    (fair : blockFair moves states) (report : hostReports moves states) {m : Nat}
    (live : ∀ k, m ≤ k → (states k).Live) (calm : ∀ k, m ≤ k → ∀ level, moves k ≠ .rst level)
    (ho : (states m).session.offersPacket = true) :
    ∃ j, m ≤ j ∧ (states (j + 1)).session ≠ (states j).session := by
  refine Classical.byContradiction fun hn => ?_
  have stay : ∀ d, (states (m + d)).session = (states m).session := by
    intro d
    induction d with
    | zero => rfl
    | succ d ih => exact (Classical.not_not.1 fun hc => hn ⟨m + d, by omega, hc⟩).trans ih
  have offer : ∀ k, m ≤ k → (states k).session.offersPacket = true := fun k hk => by
    obtain ⟨d, rfl⟩ := Nat.exists_eq_add_of_le hk
    rw [stay d]; exact ho
  obtain ⟨p, hp, hq⟩ := report m ((live m (Nat.le_refl m)).offered ho)
  have issued : (states (p + 1)).reporting := by
    rcases hq with hq | ⟨hb, hc⟩
    · exact absurd ((live p hp).offered (offer p hp)) (by simp [hq])
    · rcases hc with hc | hc
      · exact move_issues (run p) (live p hp).awake hb hc (.inl rfl)
      · exact move_issues (run p) (live p hp).awake hb hc (.inr rfl)
  have moved : ∀ k, p < k → (states k).reporting → moves k ≠ .block ∧ (states (k + 1)).reporting := fun k hk hr => by
    rcases move_reporting (run k) (live k (by omega)) (offer k (by omega)) hr (calm k (by omega)) with h | h
    · exact h
    · exact absurd ⟨k, by omega, h⟩ hn
  have waits : ∀ d, (states (p + 1 + d)).reporting := by
    intro d
    induction d with
    | zero => exact issued
    | succ d ih => exact (moved _ (by omega) ih).2
  obtain ⟨q, hq, hf⟩ := fair (p + 1)
  obtain ⟨d, rfl⟩ := Nat.exists_eq_add_of_le hq
  rcases hf with hf | hf
  · exact (moved _ (by omega) (waits d)).1 hf
  · exact absurd (waits d).1 (by simp [hf])

/-- A wait does not last for ever (42_matcher R177, 70_reset R263 b): the ticks go on. -/
theorem wait_ends {moves : Nat → Event} {states : Nat → State} (run : isRun moves states) (ticks : tickLive moves)
    {m : Nat} (live : ∀ k, m ≤ k → (states k).Live) (calm : ∀ k, m ≤ k → ∀ level, moves k ≠ .rst level)
    (hw : (states m).session = .synSent) : ∃ j, m ≤ j ∧ (states (j + 1)).session ≠ (states j).session := by
  refine Classical.byContradiction fun hn => ?_
  have same : ∀ k, m ≤ k → (states (k + 1)).session = (states k).session :=
    fun k hk => Classical.not_not.1 fun hc => hn ⟨k, hk, hc⟩
  have wait : ∀ k, m ≤ k → (states k).session = .synSent := fun k hk => by
    obtain ⟨d, rfl⟩ := Nat.exists_eq_add_of_le hk
    induction d with
    | zero => exact hw
    | succ d ih => exact (same (m + d) (by omega)).trans (ih (by omega))
  refine no_endless_drop (f := fun k => (states k).remain.toNat) (m := m) (fun k hk => ?_) (fun k hk => ?_)
  · rcases (move_running (run k) (live k hk) (.inr (.inl (wait k hk))) (calm k hk)).2.2 with h | h
    · exact h.2
    · rw [same k hk] at h; omega
  · obtain ⟨j, hj, ht⟩ := ticks k
    refine ⟨j, hj, ?_⟩
    have h := run j
    rw [ht] at h
    rcases move_tick h (live j (by omega)) (wait j (by omega)) with h | h
    · exact absurd (h.symm.trans (wait (j + 1) (by omega))) (by decide)
    · exact h

/-- 70_reset R263 (c): with BLOCK fair, the ticks going on and the HOST reporting its transmissions, every session
started from INIT reaches a terminal state, unless the environment moves rst. -/
theorem sessions_end {moves : Nat → Event} {states : Nat → State} (run : isRun moves states)
    (fair : blockFair moves states) (ticks : tickLive moves) (report : hostReports moves states) :
    sessionsEnd moves states := by
  intro n hi hsyn
  refine Classical.byContradiction fun hn => ?_
  have calm : ∀ k, n + 1 ≤ k → ∀ level, moves k ≠ .rst level :=
    fun k hk level hl => hn ⟨k, hk, .inr ⟨level, hl⟩⟩
  have inv : ∀ d, (states (n + 1 + d)).Live ∧ (states (n + 1 + d)).session.running := by
    intro d
    induction d with
    | zero => exact ⟨move_starts (run n) hi hsyn, .inl hsyn⟩
    | succ d ih =>
      obtain ⟨h1, h2, _⟩ := move_running (run _) ih.1 ih.2 (calm _ (by omega))
      exact ⟨h1, h2.resolve_right fun ht => hn ⟨_, by omega, .inl ht⟩⟩
  have inv : ∀ k, n + 1 ≤ k → (states k).Live ∧ (states k).session.running := fun k hk => by
    obtain ⟨d, rfl⟩ := Nat.exists_eq_add_of_le hk
    exact inv d
  have step1 : ∀ k, n + 1 ≤ k → _ := fun k hk =>
    (move_running (run k) (inv k hk).1 (inv k hk).2 (calm k hk)).2.2
  refine no_endless_drop (f := fun k => (states k).session.distance) (m := n + 1) (fun k hk => ?_) (fun k hk => ?_)
  · rcases step1 k hk with h | h
    · simp [h.1]
    · exact Nat.le_of_lt h
  · have live : ∀ j, k ≤ j → (states j).Live := fun j hj => (inv j (by omega)).1
    have calm' : ∀ j, k ≤ j → ∀ level, moves j ≠ .rst level := fun j hj => calm j (by omega)
    have : ∃ j, k ≤ j ∧ (states (j + 1)).session ≠ (states j).session := by
      rcases (inv k hk).2 with hx | hx | hx
      · exact offer_ends run fair report live calm' (by simp [hx, Session.offersPacket])
      · exact wait_ends run ticks live calm' hx
      · exact offer_ends run fair report live calm' (by simp [hx, Session.offersPacket])
    obtain ⟨j, hj, hne⟩ := this
    exact ⟨j, hj, (step1 j (by omega)).resolve_left fun h => hne h.1⟩

end Sys2Proof.Machine
end

