-- ==== Sys2Proof/Laws/PerInstr.lean ====
section
/-! SUPPORT. Facts about every command as syntax, one lemma per constructor: the word of a command is legal under the
formats' masks of 30_encoding R82 to R88. -/

namespace Sys2Proof.Laws.EncodeWellFormed

open Sys2Proof

/-- The command's word is a legal command word (30_encoding R88). -/
def Statement (i : Instr) : Prop := wellFormedWord (encode i) = true

theorem nop : Statement .nop := rfl
theorem ckClr : Statement .ckClr := rfl

theorem ckAddw (imm16 : Half) : Statement (.ckAddw imm16) := by
  have e := encode_ckAddw_toNat imm16
  have h0 : opOf (encode (.ckAddw imm16)) = 0x02#8 := by
    apply BitVec.eq_of_toNat_eq
    rw [opOf_toNat, e]
    simp
    omega
  have h1 : (encode (.ckAddw imm16)).extractLsb' 8 8 = 0#8 := by
    rw [extract_eq_zero_iff_toNat, e]
    omega
  unfold Statement wellFormedWord
  rw [setWidth_eq_opOf, h0]
  simp only [opcodeFormat, if_true]
  exact beq_iff_eq.2 ((maskW_eq_zero _).2 h1)

theorem ckAddb (imm8 : Byte) : Statement (.ckAddb imm8) := by
  have e := encode_ckAddb_toNat imm8
  have hv := imm8.isLt
  have h0 : opOf (encode (.ckAddb imm8)) = 0x03#8 := by
    apply BitVec.eq_of_toNat_eq
    rw [opOf_toNat, e]
    simp
    omega
  have h1 : (encode (.ckAddb imm8)).extractLsb' 24 8 = 0#8 := by
    rw [extract_eq_zero_iff_toNat, e]
    omega
  have h2 : (encode (.ckAddb imm8)).extractLsb' 8 8 = 0#8 := by
    rw [extract_eq_zero_iff_toNat, e]
    omega
  have h3 : (0x03#8 : Byte) ≠ 0x02#8 := by decide
  unfold Statement wellFormedWord
  rw [setWidth_eq_opOf, h0]
  simp only [opcodeFormat, if_neg h3, if_true]
  exact beq_iff_eq.2 ((maskB_eq_zero _).2 ⟨h1, h2⟩)

theorem ckFin : Statement .ckFin := rfl
theorem ckBuf : Statement .ckBuf := rfl
theorem start : Statement .start := rfl
theorem txOk : Statement .txOk := rfl
theorem txFail : Statement .txFail := rfl
theorem rxPush : Statement .rxPush := rfl
theorem rxErr : Statement .rxErr := rfl
theorem matchTest : Statement .matchTest := rfl
theorem srst : Statement .srst := rfl

end Sys2Proof.Laws.EncodeWellFormed
end

