-- ==== Sys2Proof/Tests/Slice0.lean ====
section
/-! SUPPORT. The model's own tests, each on one step or less, expected values from 95_test_vectors or worked out from
the rule named; and for every statement with hypotheses a witness that they can be met, clause by clause. -/

namespace Sys2Proof.Tests

open Sys2Proof.Machine Sys2Proof.Claims

/-! ### Helpers -/

def nextOf : Host.Outcome State Fault Refusal → Option State
  | .next s => some s
  | .fault _ => none
  | .refused _ => none

def faultOf : Host.Outcome State Fault Refusal → Option Fault
  | .next _ => none
  | .fault f => some f
  | .refused _ => none

/-- The test configuration TC of 95_test_vectors in the registers and in the latch. -/
def configured : State :=
  { State.reset with
    clientAddr := 0xC0A8010A#32, serverAddr := 0xC0A80114#32, ports := 0x1F903039#32, seqSyn := 200#32,
    seqAck := 600#32, winTtl := 0x4016D0#24, ipId := 0xD431#16, timeout := 5#32
    latch := { Latch.discarded with cfg := testCfg } }

/-- A state of a running or ended session, the flags as 10_state R49 asks. -/
def session (x : Session) : State :=
  { configured with session := x, chanOwn := x.ownsChannel, txPend := x.offersPacket }

/-- The reference SYN-ACK of 95_test_vectors. -/
def rsa : List Byte :=
  [0x45, 0x00, 0x00, 0x28, 0x12, 0x34, 0x40, 0x00, 0x40, 0x06, 0x00, 0x00, 0xc0, 0xa8, 0x01, 0x14, 0xc0, 0xa8, 0x01,
   0x0a] ++
  [0x1f, 0x90, 0x30, 0x39, 0x00, 0x00, 0x01, 0xf4, 0x00, 0x00, 0x00, 0xc9, 0x50, 0x12, 0x20, 0x00, 0x00, 0x00, 0x00,
   0x00]

/-- SYN_SENT with one tick left, a packet in the RX region and its length latched. -/
def arrived (p : List Byte) : State :=
  { session .synSent with
    remain := 1#32, ram := Memory.putAll [] 0x040 p
    latch := { configured.latch with cmd := 0x00000020#32, rxLen := BitVec.ofNat 16 p.length }
    history := { History.empty with chanRises := 1, budget := 1#32 } }

/-- The same with the event to come. -/
def before (e : Event) (s : State) : State := { s with schedule := [e] }

/-- The same with a command pending. -/
def pending (w : Word) (s : State) : State := before .block { s with busy := true, latch := { s.latch with cmd := w } }

theorem holdsAt_of_read {m : Memory} {o : Nat} {p : List Byte} (h : readBytes m o p.length = .ok p) :
    holdsAt m o p := by
  intro k b hk
  obtain ⟨hl, rfl⟩ := List.getElem?_eq_some_iff.1 hk
  exact ((readBytes_ok h).2 k hl).2

/-! ### Well-formed words (30_encoding R87, R88): an ill-formed word for each check -/

theorem test_wf_opcode : wellFormedWord 0x00000006#32 = false := by decide
theorem test_wf_formatN : wellFormedWord 0x00000110#32 = false := by decide
theorem test_wf_formatW : wellFormedWord 0x00000102#32 = false := by decide
theorem test_wf_formatB : wellFormedWord 0x01010003#32 = false := by decide
theorem test_wf_ok : wellFormedWord 0xFFFF0002#32 = true := by decide

/-! ### Decoding: words written out from the encodings of 30_encoding R82 to R86 -/

theorem test_decode_nop : decode 0b00000000000000000000000000000000#32 = .ok .nop := by decide
theorem test_decode_ckClr : decode 0b00000000000000000000000000000001#32 = .ok .ckClr := by decide
theorem test_decode_ckAddw : decode 0b11110010000000110000000000000010#32 = .ok (.ckAddw 0xF203#16) := by decide
theorem test_decode_ckAddb : decode 0b00000000101010110000000000000011#32 = .ok (.ckAddb 0xAB#8) := by decide
theorem test_decode_ckFin : decode 0b00000000000000000000000000000100#32 = .ok .ckFin := by decide
theorem test_decode_ckBuf : decode 0b00000000000000000000000000000101#32 = .ok .ckBuf := by decide
theorem test_decode_start : decode 0b00000000000000000000000000010000#32 = .ok .start := by decide
theorem test_decode_txOk : decode 0b00000000000000000000000000010001#32 = .ok .txOk := by decide
theorem test_decode_txFail : decode 0b00000000000000000000000000010010#32 = .ok .txFail := by decide
theorem test_decode_rxPush : decode 0b00000000000000000000000000100000#32 = .ok .rxPush := by decide
theorem test_decode_rxErr : decode 0b00000000000000000000000000100001#32 = .ok .rxErr := by decide
theorem test_decode_matchTest : decode 0b00000000000000000000000000100010#32 = .ok .matchTest := by decide
theorem test_decode_srst : decode 0b00000000000000000000000000110000#32 = .ok .srst := by decide
theorem test_decode_reserved : decode 0x000000FF#32 = .error .opcode := by decide
theorem test_decode_rsvd : decode 0x01010003#32 = .error .rsvd := by decide
theorem test_decodeTableWord : decodeTableWord 32 0xF2030002 = some (.ckAddw 0xF203#16) := by decide

/-! ### One or two tests a command (95_test_vectors A3, B, C, 2.4) -/

theorem test_nop : (nextOf (exec .nop (session .synReady))).map (fun t => (t.session, t.errP)) =
    some (.synReady, false) := by decide

theorem test_ckClr : (nextOf (exec .ckClr { State.reset with ckAcc := 0x0002DDF0#32, accOvf := true, ckResult := 0x1234#16 })).map
    (fun t => (t.ckAcc, t.accOvf, t.ckResult)) = some (0#32, false, 0x1234#16) := by decide

theorem test_ckAddw : (nextOf (exec (.ckAddw 0xF203#16) { State.reset with ckAcc := 1#32 })).map State.ckAcc =
    some 0x0000F204#32 := by decide

theorem test_ckAddw_carry : (nextOf (exec (.ckAddw 1#16) { State.reset with ckAcc := 0xFFFFFFFF#32 })).map
    (fun t => (t.ckAcc, t.accOvf)) = some (0#32, true) := by decide

theorem test_ckAddb : (nextOf (exec (.ckAddb 0x03#8) { State.reset with ckAcc := 0x00000102#32 })).map State.ckAcc =
    some 0x00000402#32 := by decide

theorem test_ckFin : (nextOf (exec .ckFin { State.reset with ckAcc := 0x00000402#32 })).map
    (fun t => (t.ckResult, t.ckAcc)) = some (0xFBFD#16, 0x00000402#32) := by decide

theorem test_ckFin_secondFold : (nextOf (exec .ckFin { State.reset with ckAcc := 0x0001FFFF#32 })).map State.ckResult =
    some 0xFFFE#16 := by decide

/-- PKT_RAM[0x041..0x043] = 01 02 03, CK_RANGE = 0x00030041. -/
def oddBuffer : State :=
  { State.reset with
    ram := Memory.putAll [] 0x041 [1, 2, 3], latch := { Latch.discarded with range := 0x00030041#32 } }

theorem test_ckBuf : (nextOf (exec .ckBuf oddBuffer)).map (fun t => (t.ckAcc, t.ckResult)) =
    some (0x00000402#32, 0xFBFD#16) := by decide

theorem test_ckBuf_unwritten : faultOf (exec .ckBuf { oddBuffer with ram := [] }) = some (.unwrittenByte 0x041) := by
  decide

theorem test_start : (nextOf (exec .start configured)).map
    (fun t => (t.statusWord, t.ckResult, Memory.byteAt t.ram 0x0A, Memory.byteAt t.ram 0x1B)) =
    some (0x00000231#32, 0x6BCC#16, some 0x6B#8, some 0xC8#8) := by decide

theorem test_start_tcp : (nextOf (exec .start { configured with latch := { configured.latch with cfg := { testCfg with csum := 1#2 } } })).map
    (fun t => (t.ckResult, Memory.byteAt t.ram 0x24, Memory.byteAt t.ram 0x25)) =
    some (0xA6B9#16, some 0xC5#8, some 0x12#8) := by decide

theorem test_txOk : (nextOf (exec .txOk (session .synReady))).map (fun t => (t.session, t.remain, t.txPend)) =
    some (.synSent, 5#32, false) := by decide

theorem test_txOk_init : (nextOf (exec .txOk (pending 0x00000011#32 (session .init)))).map
    (fun t => (t.errInfo, t.errCmd)) = some (.state, 0x00000011#32) := by decide

theorem test_txFail : (nextOf (exec .txFail (session .synReady))).map
    (fun t => (t.session, t.chanOwn, t.doneP, t.txPend)) = some (.aborted, false, true, false) := by decide

theorem test_rxPush : (nextOf (exec .rxPush (arrived rsa))).map
    (fun t => (t.session, t.peerSeq, t.ckResult, Memory.byteAt t.ram 0x1F)) =
    some (.ackReady, 500#32, 0x6839#16, some 0xF5#8) := by decide

theorem test_rxPush_otherAck : (nextOf (exec .rxPush (arrived (rsa.set 0x1F 0xCA#8)))).map
    (fun t => (t.session, t.lastMatch, Memory.byteAt t.ram 0)) = some (.synSent, false, none) := by decide

theorem test_rxErr : (nextOf (exec .rxErr { State.reset with rxErrCnt := 0xFFFFFFFF#32 })).map State.rxErrCnt =
    some 0xFFFFFFFF#32 := by decide

theorem test_matchTest_flags : (nextOf (exec .matchTest (arrived (rsa.set 0x21 0x16#8)))).map State.lastMatch =
    some true := by decide

theorem test_matchTest_port : (nextOf (exec .matchTest (arrived (rsa.set 0x15 0x91#8)))).map State.lastMatch =
    some false := by decide

theorem test_srst : (nextOf (exec .srst { session .timedOut with doneP := true, peerSeq := 7#32 })).map
    (fun t => (t.session, t.peerSeq, t.doneP)) = some (.init, 0#32, true) := by decide

theorem test_srst_running : (nextOf (exec .srst (session .synReady))).map (fun t => (t.session, t.errInfo)) =
    some (.synReady, .state) := by decide

/-! ### The bus, the tick, reset, a script (20_memory R63 to R66, 42_matcher R175, 30_encoding R93) -/

theorem test_window_bytes : (nextOf (step (before (.write 0x1100#32 .word 0x73000045#32) State.reset))).map State.ram =
    some [(0x100, 0x45#8), (0x101, 0#8), (0x102, 0#8), (0x103, 0x73#8)] := by decide

theorem test_window_half : (nextOf (step (before (.write 0x110A#32 .half 0x61B8#32) State.reset))).map State.ram =
    some [(0x10A, 0xB8#8), (0x10B, 0x61#8)] := by decide

theorem test_narrow_cmd : (nextOf (step (before (.write 0x0008#32 .half 0x10#32) State.reset))).map
    (fun t => (t.bus, t.busy, t.errP)) = some (.writeErr, false, false) := by decide

theorem test_misaligned_read : (nextOf (step (before (.read 0x1002#32 .word) State.reset))).map State.bus =
    some (.readErr 0#32) := by decide

theorem test_tick : (nextOf (step (before .tick { session .synSent with remain := 2#32 }))).map
    (fun t => (t.remain, t.session)) = some (1#32, .synSent) := by decide

theorem test_rst : (nextOf (step (before (.rst true) (session .established)))).map (fun t => (t.session, t.rst)) =
    some (.init, true) := by decide

theorem test_script_do : assembleLine "do Ck_AddW 0xF203   ; add" =
    some [.write 0x008#32 .word 0xF2030002#32, .poll 0x004#32 0x8#32 0x0#32] := by decide

theorem test_script_cksum : assembleLine "CKSUM 0x100, 20" =
    some [.write 0x014#32 .word 0x00140100#32, .write 0x008#32 .word 0x00000005#32, .poll 0x004#32 0x8#32 0x0#32] := by
  decide

theorem test_fetch : (nextOf (step (State.reset.withFetchWord 32 0x00000010))).map (fun t => (t.session, t.busy)) =
    some (.synReady, false) := by decide

/-! ### Witnesses: the hypotheses of the statements can be met -/

theorem witness_ReservedOpcodeIsRejected :
    State.reset.busy = false ∧ reservedOpcode ((0x00000006#32).toNat % 256) ∧
      reservedOpcode ((0x0000000F#32).toNat % 256) ∧ reservedOpcode ((0x00000013#32).toNat % 256) ∧
      reservedOpcode ((0x0000001F#32).toNat % 256) ∧ reservedOpcode ((0x00000023#32).toNat % 256) ∧
      reservedOpcode ((0x0000002F#32).toNat % 256) ∧ reservedOpcode ((0x00000031#32).toNat % 256) ∧
      reservedOpcode ((0x000000FF#32).toNat % 256) := by
  unfold reservedOpcode
  exact ⟨rfl, by decide, by decide, by decide, by decide, by decide, by decide, by decide, by decide⟩

theorem witness_IssueChecksThenLatches_busy : (pending 0#32 State.reset).busy = true := rfl

theorem witness_IssueChecksThenLatches_opcode :
    State.reset.busy = false ∧ decode 0x00000031#32 = .error .opcode := by decide

theorem witness_IssueChecksThenLatches_rsvd :
    State.reset.busy = false ∧ decode 0x80000030#32 = .error .rsvd := by decide

theorem witness_IssueChecksThenLatches_range :
    ∃ s : State, s.busy = false ∧ decode 0x00000005#32 = .ok .ckBuf ∧
      4096 < (s.ckRange.extractLsb' 0 16).toNat + (s.ckRange.extractLsb' 16 16).toNat :=
  ⟨{ State.reset with ckRange := 0x00100FF1#32 }, by decide⟩

theorem witness_IssueChecksThenLatches_rxLen :
    ∃ s : State, s.busy = false ∧ decode 0x00000020#32 = .ok .rxPush ∧ decode 0x00000022#32 = .ok .matchTest ∧
      4032 < s.rxLen.toNat :=
  ⟨{ State.reset with rxLen := 4033#16 }, by decide⟩

theorem witness_IssueChecksThenLatches_latch :
    ∃ s : State, s.busy = false ∧ decode 0x00000005#32 = .ok .ckBuf ∧ decode 0x00000020#32 = .ok .rxPush ∧
      (s.ckRange.extractLsb' 0 16).toNat + (s.ckRange.extractLsb' 16 16).toNat ≤ 4096 ∧ s.rxLen.toNat ≤ 4032 :=
  ⟨{ State.reset with ckRange := 0x00100FF0#32, rxLen := 4032#16 }, by decide⟩

theorem witness_CommandErrorCapturesTheFirst :
    State.reset.errP = false ∧ (cmdError .busy 0#32 State.reset).errP = true := by decide

theorem witness_OneCauseByPriority :
    State.reset.errP = false ∧ State.reset.busy = false ∧ (pending 0#32 State.reset).errP = false ∧
      (pending 0#32 State.reset).busy = true ∧ reservedOpcode ((0x000000FF#32).toNat % 256) ∧
      ¬ reservedOpcode ((0x00000110#32).toNat % 256) ∧ wellFormedWord 0x00000110#32 = false ∧
      decode 0x00000005#32 = .ok .ckBuf ∧ rangeError .ckBuf { State.reset with ckRange := 0x00100FF1#32 } = true ∧
      (session .synReady).errP = false ∧ (nextOf (exec .start (session .synReady))).map State.errP = some true ∧
      rangeError .ckBuf { State.reset with ckRange := 0x00100FF0#32 } = false := by
  unfold reservedOpcode
  decide

theorem witness_StepCompletesTheLatchedCommand :
    (pending 0x00000010#32 configured).rst = false ∧ (pending 0x00000010#32 configured).nextEvent = .block ∧
      (pending 0x00000010#32 configured).busy = true ∧
      decode (pending 0x00000010#32 configured).latch.cmd = .ok .start ∧
      footprintHazard .start (pending 0x00000010#32 configured) = false := by decide

theorem witness_StepCompletesTheLatchedCommand_idle :
    State.reset.rst = false ∧ State.reset.nextEvent = .block ∧ State.reset.busy = false := by decide

theorem witness_PlacedWordRunsNext : decodeTableWord 32 0x00000030 = some .srst := by decide

theorem witness_StateAdmitsCommandsAsTabled :
    admission .start (session .synReady).session = .err ∧ admission .txOk (session .synSent).session = .err ∧
      admission .txFail (session .init).session = .err ∧ admission .srst (session .ackReady).session = .err ∧
      admission .rxPush (session .established).session = .ign ∧
      admission .ckBuf oddBuffer.session = .ok ∧ (nextOf (exec .ckBuf oddBuffer)).isSome = true := by decide

theorem witness_ErringCompletionHasNoOtherEffect :
    ∃ t, exec .start (session .synReady) = .next t ∧ (session .synReady).errP = false ∧ t.errP = true :=
  ⟨_, rfl, rfl, rfl⟩

theorem witness_ChecksumIsComplementedFold : ([] : List Byte).length ≤ 131074 ∧ rsa.length ≤ 131074 := by decide

theorem witness_FoldLaws : ([] : List Byte).length ≤ 65535 ∧ rsa.length ≤ 65535 := by decide

theorem witness_InsertedChecksumVerifies :
    (rsa.take 10).length % 2 = 0 ∧ (rsa.take 10 ++ [0#8, 0#8] ++ rsa.drop 12).length ≤ 65535 := by decide

theorem witness_BufferChecksumEqualsStreaming :
    ([1, 2, 3] : List Byte).length ≤ 4096 ∧ rangeLen oddBuffer.latch.range = ([1, 2, 3] : List Byte).length ∧
      rangeBase oddBuffer.latch.range + ([1, 2, 3] : List Byte).length ≤ 4096 ∧
      holdsAt oddBuffer.ram (rangeBase oddBuffer.latch.range) [1, 2, 3] :=
  ⟨by decide, by decide, by decide, holdsAt_of_read (by rfl)⟩

theorem witness_ChecksumBytesAreOrderIndependent : ([1, 2, 3] : List Byte).length ≤ 65535 := by decide

/-- BASE 4096 and LEN 0: the boundary of the range check. -/
def emptyAtTheEnd : State := { State.reset with latch := { Latch.discarded with range := 0x00001000#32 } }

theorem witness_CkBufSumsTheLatchedRange :
    rangeBase oddBuffer.latch.range + rangeLen oddBuffer.latch.range ≤ 4096 ∧
      ([1, 2, 3] : List Byte).length = rangeLen oddBuffer.latch.range ∧
      holdsAt oddBuffer.ram (rangeBase oddBuffer.latch.range) [1, 2, 3] ∧
      rangeBase emptyAtTheEnd.latch.range + rangeLen emptyAtTheEnd.latch.range ≤ 4096 ∧
      holdsAt emptyAtTheEnd.ram (rangeBase emptyAtTheEnd.latch.range) [] :=
  ⟨by decide, by decide, holdsAt_of_read (by rfl), by decide, holdsAt_of_read (by rfl)⟩

theorem witness_CkBufSumsTheLatchedRange_unwritten :
    ∃ s : State, rangeBase s.latch.range + rangeLen s.latch.range ≤ 4096 ∧ rangeBase s.latch.range ≤ 4095 ∧
      4095 < rangeBase s.latch.range + rangeLen s.latch.range ∧ Memory.byteAt s.ram 4095 = none :=
  ⟨{ State.reset with latch := { Latch.discarded with range := 0x00010FFF#32 } }, by decide⟩

theorem witness_ChecksumCommandsLeaveTheSession :
    Instr.ckBuf ∈ ([.ckClr, .ckFin, .ckBuf] : List Instr) ∧ (nextOf (exec .ckBuf oddBuffer)).isSome = true ∧
      (∃ v, Instr.ckAddw 1#16 = .ckAddw v) ∧ ∃ v, Instr.ckAddb 1#8 = .ckAddb v :=
  ⟨by decide, by decide, ⟨_, rfl⟩, ⟨_, rfl⟩⟩

theorem witness_BuiltPacketHasTheLayout : testCfg.csum.getLsbD 0 = false := by decide

theorem witness_BuildFollowsTheWrittenSequence : Memory.wf (arrived rsa).ram = true := by decide

theorem witness_BuiltPacketVerifies : testCfg.csum.getLsbD 1 = false := by decide

theorem witness_TcpChecksumVerifies : ({ testCfg with csum := 3#2 } : Cfg).csum.getLsbD 0 = true := by decide

theorem witness_StartBuildsTheSyn : configured.session = .init ∧ ∃ t, exec .start configured = .next t :=
  ⟨rfl, _, rfl⟩

theorem witness_TxReportsMoveTheSession :
    (session .synReady).session = .synReady ∧ (session .synReady).latch.cfg.timeout ≠ 0#32 ∧
      (session .ackReady).session = .ackReady := by decide

theorem witness_TxReportsMoveTheSession_expired :
    ∃ s : State, s.session = .synReady ∧ s.latch.cfg.timeout = 0#32 :=
  ⟨{ State.reset with session := .synReady }, rfl, rfl⟩

theorem witness_rsa_matches : matchesPacket testCfg rsa := by
  unfold matchesPacket
  decide

theorem witness_otherAck_differs : ¬ matchesPacket testCfg (rsa.set 0x1F 0xCA#8) := by
  unfold matchesPacket
  decide

theorem witness_short_differs : ¬ matchesPacket testCfg (rsa.take 39) := by
  unfold matchesPacket
  decide

theorem witness_MatchIsExactlyTheFourCriteria :
    rsa.length ≤ 4032 ∧ holdsAt (arrived rsa).ram 0x040 rsa ∧
      holdsAt (arrived (rsa.set 0x1F 0xCA#8)).ram 0x040 (rsa.set 0x1F 0xCA#8) ∧
      holdsAt (arrived (rsa.take 39)).ram 0x040 (rsa.take 39) :=
  ⟨by decide, holdsAt_of_read (by rfl), holdsAt_of_read (by rfl), holdsAt_of_read (by rfl)⟩

theorem witness_MalformedPacketsAreRejected :
    Memory.byteAt (arrived (rsa.set 0 0x44#8)).ram 0x040 = some 0x44#8 ∧ ((0x44#8 : Byte).extractLsb' 0 4).toNat < 5 ∧
      Memory.byteAt (arrived (rsa.set 0 0x46#8)).ram 0x040 = some 0x46#8 ∧
      43 < 4 * ((0x46#8 : Byte).extractLsb' 0 4).toNat + 20 := by decide

theorem witness_MalformedPacketsAreRejected_agree :
    ∀ k, k < 40 → Memory.byteAt (Memory.put (arrived rsa).ram 0x068 1#8) (0x040 + k) =
      Memory.byteAt (arrived rsa).ram (0x040 + k) := by decide

theorem witness_MalformedPacketsAreRejected_waiting :
    (arrived (rsa.take 39)).session = .synSent ∧
      matchPacket (arrived (rsa.take 39)).latch.cfg (arrived (rsa.take 39)).latch.rxLen.toNat
        (arrived (rsa.take 39)).ram = .ok none := ⟨rfl, rfl⟩

theorem witness_RxLenAboveCapIsRefusedAtIssue :
    (∃ s : State, s.busy = false ∧ 4032 < s.rxLen.toNat) ∧ ∃ s : State, s.busy = false ∧ s.rxLen.toNat ≤ 4032 :=
  ⟨⟨{ State.reset with rxLen := 4033#16 }, by decide⟩, { State.reset with rxLen := 4032#16 }, by decide⟩

theorem witness_RxPushAcceptsRejectsOrIgnores :
    (session .init).session ≠ .synSent ∧ (arrived rsa).session = .synSent ∧ rsa.length ≤ 4032 ∧
      (arrived rsa).latch.rxLen.toNat = rsa.length ∧ holdsAt (arrived rsa).ram 0x040 rsa ∧
      matchesPacket (arrived rsa).latch.cfg rsa ∧ ∃ t, exec .rxPush (arrived rsa) = .next t :=
  ⟨by decide, rfl, by decide, by decide, holdsAt_of_read (by rfl), witness_rsa_matches, _, rfl⟩

theorem witness_RxPushAcceptsRejectsOrIgnores_rejected :
    (arrived (rsa.take 39)).session = .synSent ∧ (rsa.take 39).length ≤ 4032 ∧
      (arrived (rsa.take 39)).latch.rxLen.toNat = (rsa.take 39).length ∧
      holdsAt (arrived (rsa.take 39)).ram 0x040 (rsa.take 39) ∧
      ¬ matchesPacket (arrived (rsa.take 39)).latch.cfg (rsa.take 39) :=
  ⟨rfl, by decide, by decide, holdsAt_of_read (by rfl), witness_short_differs⟩

theorem witness_MatchTestWritesTheVerdictOnly :
    (arrived rsa).latch.rxLen.toNat = rsa.length ∧ holdsAt (arrived rsa).ram 0x040 rsa ∧
      matchesPacket (arrived rsa).latch.cfg rsa :=
  ⟨by decide, holdsAt_of_read (by rfl), witness_rsa_matches⟩

theorem witness_MatchTestWritesTheVerdictOnly_rejected :
    (arrived (rsa.set 0x1F 0xCA#8)).latch.rxLen.toNat = (rsa.set 0x1F 0xCA#8).length ∧
      holdsAt (arrived (rsa.set 0x1F 0xCA#8)).ram 0x040 (rsa.set 0x1F 0xCA#8) ∧
      ¬ matchesPacket (arrived (rsa.set 0x1F 0xCA#8)).latch.cfg (rsa.set 0x1F 0xCA#8) :=
  ⟨by decide, holdsAt_of_read (by rfl), witness_otherAck_differs⟩

theorem witness_TickCountsDownTheWait :
    (before .tick (arrived rsa)).rst = false ∧ (before .tick (arrived rsa)).nextEvent = .tick ∧
      (before .tick (arrived rsa)).session = .synSent ∧ (before .tick (arrived rsa)).remain.toNat = 1 ∧
      1 < ({ before .tick (arrived rsa) with remain := 2#32 } : State).remain.toNat ∧
      (before .tick (session .ackReady)).nextEvent = .tick ∧ (before .tick (session .ackReady)).session ≠ .synSent := by
  decide

theorem witness_ExpiringTickBeatsTheArrival :
    ∃ s : State, s.rst = false ∧ s.schedule = sameCycle ∧ s.session = .synSent ∧ s.remain = 1#32 ∧ s.busy = true ∧
      s.latch.cmd = 0x00000020#32 ∧ s.hostWrites = [] :=
  ⟨{ arrived rsa with busy := true, schedule := sameCycle }, by decide⟩

theorem witness_ReceiveCommandsKeepTheBudget :
    (∃ t, exec .rxPush (arrived rsa) = .next t) ∧ (∃ t, exec .matchTest (arrived rsa) = .next t) ∧
      ∃ t, exec .rxErr (arrived rsa) = .next t :=
  ⟨⟨_, rfl⟩, ⟨_, rfl⟩, ⟨_, rfl⟩⟩

theorem witness_WaitTimesOutAfterRemainTicks :
    ∃ s : State, s.rst = false ∧ s.session = .synSent ∧ 1 ≤ s.remain.toNat ∧ 5 ≤ s.remain.toNat ∧
      s.schedule = List.replicate 5 .tick :=
  ⟨{ arrived rsa with remain := 5#32, schedule := List.replicate 5 .tick }, by decide⟩

theorem witness_NopIsInertAndSrstEndsTheSession :
    (session .init).session = .init ∧ (session .established).session = .established ∧
      (session .timedOut).session = .timedOut ∧ (session .aborted).session = .aborted ∧
      (session .synReady).session = .synReady ∧ (session .synSent).session = .synSent ∧
      (session .ackReady).session = .ackReady := by decide

theorem witness_arrived_inv : State.Inv (arrived rsa) := by
  constructor <;> first | rfl | decide | (intro h; cases h)

theorem witness_before_inv (e : Event) {s : State} (h : State.Inv s) (hr : s.rst = false) : State.Inv (before e s) where
  channel := h.channel
  pending := h.pending
  acceptedOne := h.acceptedOne
  acceptedNone := h.acceptedNone
  acceptedAtMostOne := h.acceptedAtMostOne
  budget := h.budget
  waiting := h.waiting
  ticksBound := h.ticksBound
  noBudget := h.noBudget
  noTicks := h.noTicks
  edges := h.edges
  ram := h.ram
  latched := h.latched
  inReset := fun hs => absurd (hr.symm.trans hs) (by decide)

theorem witness_SessionMovesOnlyByTheTransitionRelation :
    ∃ t, step (before .tick (arrived rsa)) = .next t ∧ t.session ≠ (before .tick (arrived rsa)).session :=
  ⟨_, rfl, by decide⟩

theorem witness_TerminalEntryReleasesTheChannelOnce :
    State.Inv (before .tick (arrived rsa)) ∧ (before .tick (arrived rsa)).session.terminal = false ∧
      ∃ t, step (before .tick (arrived rsa)) = .next t ∧ t.session.terminal = true :=
  ⟨witness_before_inv _ witness_arrived_inv rfl, rfl, _, rfl, rfl⟩

theorem witness_OneStepSetsAtMostOnePendingBit : ∃ t, exec .start configured = .next t := ⟨_, rfl⟩

theorem witness_FlagsChangeOnlyAsTabled :
    (∃ t, step (pending 0x00000010#32 configured) = .next t ∧ t.busy ≠ (pending 0x00000010#32 configured).busy ∧
        t.txPend ≠ (pending 0x00000010#32 configured).txPend ∧
        t.chanOwn ≠ (pending 0x00000010#32 configured).chanOwn ∧
        t.txreqP ≠ (pending 0x00000010#32 configured).txreqP) ∧
      (∃ t, step (pending 0x00000020#32 (arrived rsa)) = .next t ∧
        t.lastMatch ≠ (pending 0x00000020#32 (arrived rsa)).lastMatch) ∧
      (∃ t, step (pending 0x00010002#32 { configured with ckAcc := 0xFFFFFFFF#32 }) = .next t ∧
        t.accOvf ≠ (pending 0x00010002#32 { configured with ckAcc := 0xFFFFFFFF#32 }).accOvf) ∧
      (∃ t, step (before .tick (arrived rsa)) = .next t ∧ t.doneP ≠ (before .tick (arrived rsa)).doneP) ∧
      ∃ t, step (pending 0x00000030#32 (session .synReady)) = .next t ∧
        t.errP ≠ (pending 0x00000030#32 (session .synReady)).errP :=
  ⟨⟨_, rfl, by decide, by decide, by decide, by decide⟩, ⟨_, rfl, by decide⟩, ⟨_, rfl, by decide⟩,
    ⟨_, rfl, by decide⟩, ⟨_, rfl, by decide⟩⟩

theorem witness_ReadOnlyRegistersChangeOnlyAsNamed :
    (∃ t, step (pending 0x00000010#32 configured) = .next t ∧ t.ckAcc ≠ (pending 0x00000010#32 configured).ckAcc ∧
        t.ckResult ≠ (pending 0x00000010#32 configured).ckResult) ∧
      (∃ t, step (before .tick (arrived rsa)) = .next t ∧ t.remain ≠ (before .tick (arrived rsa)).remain) ∧
      (∃ t, step (pending 0x00000020#32 (arrived rsa)) = .next t ∧
        t.peerSeq ≠ (pending 0x00000020#32 (arrived rsa)).peerSeq) ∧
      (∃ t, step (pending 0x00000021#32 configured) = .next t ∧
        t.rxErrCnt ≠ (pending 0x00000021#32 configured).rxErrCnt) ∧
      ∃ t, step (pending 0x00000030#32 (session .synReady)) = .next t ∧
        t.errInfo ≠ (pending 0x00000030#32 (session .synReady)).errInfo :=
  ⟨⟨_, rfl, by decide, by decide⟩, ⟨_, rfl, by decide⟩, ⟨_, rfl, by decide⟩, ⟨_, rfl, by decide⟩, ⟨_, rfl, by decide⟩⟩

theorem witness_BusErrorChangesNothing :
    (0x1001#32 : Word).toNat % AccessSize.half.bytes ≠ 0 ∧
      ((0x0FFC#32 : Word).toNat < 0x1000 ∧ AccessSize.byte ≠ .word) ∧ 0x1FFF < (0x2000#32 : Word).toNat ∧
      (before (.read 0x2000#32 .word) State.reset).rst = false ∧
      (before (.read 0x2000#32 .word) State.reset).nextEvent = .read 0x2000#32 .word ∧
      (before (.write 0x1001#32 .half 0#32) State.reset).nextEvent = .write 0x1001#32 .half 0#32 := by decide

theorem witness_ReadsHaveNoSideEffects :
    ∃ t, step (before (.read 0x1040#32 .word) (arrived rsa)) = .next t := ⟨_, rfl⟩

theorem witness_ReadsHaveNoSideEffects_register :
    (before (.read Reg.status.offset .word) (session .synReady)).rst = false ∧
      (before (.read Reg.status.offset .word) (session .synReady)).nextEvent = .read Reg.status.offset .word := by
  decide

theorem witness_RwRegistersReadBack :
    rwMask .winTtl = some 0x00FFFFFF#32 ∧
      (before (.write Reg.winTtl.offset .word 0xFFFFFFFF#32) State.reset).rst = false ∧
      (before (.write Reg.winTtl.offset .word 0xFFFFFFFF#32) State.reset).nextEvent =
        .write Reg.winTtl.offset .word 0xFFFFFFFF#32 := by decide

theorem witness_SilentAccessesAreLegal :
    Reg.remain ∈ readOnlyRegs ∧
      (before (.write Reg.remain.offset .word 5#32) State.reset).nextEvent = .write Reg.remain.offset .word 5#32 ∧
      0x050 ≤ (0x050#32 : Word).toNat ∧ (0xFFC#32 : Word).toNat ≤ 0xFFC ∧ (0xFFC#32 : Word).toNat % 4 = 0 ∧
      (before (.write 0xFFC#32 .word 1#32) State.reset).nextEvent = .write 0xFFC#32 .word 1#32 ∧
      (before (.read 0x050#32 .word) State.reset).nextEvent = .read 0x050#32 .word ∧
      (before (.read Reg.cmd.offset .word) State.reset).nextEvent = .read Reg.cmd.offset .word ∧
      (0x1FFF#32 : Word).toNat % AccessSize.byte.bytes = 0 ∧ ¬ (0x1FFF#32 : Word).toNat < 0x1000 ∧
      (before (.write 0x1FFF#32 .byte 1#32) State.reset).nextEvent = .write 0x1FFF#32 .byte 1#32 := by decide

theorem witness_SilentAccessesAreLegal_read :
    ∃ t, step (before (.read 0x1042#32 .half) (arrived rsa)) = .next t := ⟨_, rfl⟩

theorem witness_StatusWritesOnlyClearPendingBits :
    ∃ t, step (before (.write Reg.status.offset .word 0x700#32) State.reset) = .next t := ⟨_, rfl⟩

theorem inWindow_of {a : Word} {size : AccessSize}
    (h : (decide (0x1000 ≤ a.toNat) && decide (a.toNat ≤ 0x1FFF) && decide (a.toNat % size.bytes = 0)) = true) :
    inWindow a size := by simpa [inWindow, and_assoc] using h

theorem witness_WindowWordIsLittleEndian :
    inWindow 0x1FFF#32 .byte ∧ inWindow 0x1FFE#32 .half ∧ inWindow 0x1FFC#32 .word ∧ inWindow 0x1000#32 .byte ∧
      (before (.write 0x1FFE#32 .half 1#32) State.reset).rst = false ∧
      (before (.write 0x1FFE#32 .half 1#32) State.reset).nextEvent = .write 0x1FFE#32 .half 1#32 ∧
      (nextOf (step (before (.write 0x1FFE#32 .half 1#32) State.reset))).map State.busy = some false :=
  ⟨inWindow_of rfl, inWindow_of rfl, inWindow_of rfl, inWindow_of rfl, rfl, rfl, by decide⟩

theorem witness_WindowWordIsLittleEndian_read :
    inWindow 0x1FFE#32 .half ∧
      ∃ s : State, s.rst = false ∧ s.busy = false ∧ s.nextEvent = .read 0x1FFE#32 .half ∧
        ([1, 2] : List Byte).length = AccessSize.half.bytes ∧
        holdsAt s.ram ((0x1FFE#32 : Word).toNat - 0x1000) [1, 2] :=
  ⟨inWindow_of rfl, { before (.read 0x1FFE#32 .half) State.reset with ram := Memory.putAll [] 0xFFE [1, 2] }, rfl, rfl,
    rfl, rfl, by rw [show (0x1FFE#32 : Word).toNat - 0x1000 = 0xFFE by decide]; exact holdsAt_of_read (by rfl)⟩

/-- A START pending over two written bytes of the TX packet, and a read of them to come. -/
def racing : State :=
  { pending 0x00000010#32 configured with
    ram := Memory.putAll [] 0 [9, 8], schedule := [.read 0x1000#32 .half] }

theorem witness_RacingReadIsOldOrNew :
    racing.rst = false ∧ inWindow 0x1000#32 .half ∧ racing.nextEvent = .read 0x1000#32 .half ∧
      ([9, 8] : List Byte).length = AccessSize.half.bytes ∧
      holdsAt racing.ram ((0x1000#32 : Word).toNat - 0x1000) [9, 8] ∧ racing.busy = true ∧
      decode racing.latch.cmd = .ok .start :=
  ⟨rfl, inWindow_of rfl, rfl, rfl,
    by rw [show (0x1000#32 : Word).toNat - 0x1000 = 0 by decide]; exact holdsAt_of_read (by rfl), rfl, rfl⟩

theorem witness_FootprintWriteFaultsTheCompletion_record :
    (before (.write 0x1FFF#32 .byte 1#32) racing).rst = false ∧
      (before (.write 0x1FFF#32 .byte 1#32) racing).busy = true ∧ inWindow 0x1FFF#32 .byte ∧
      (before (.write 0x1FFF#32 .byte 1#32) racing).nextEvent = .write 0x1FFF#32 .byte 1#32 :=
  ⟨rfl, rfl, inWindow_of rfl, rfl⟩

theorem witness_FootprintWriteFaultsTheCompletion_keep :
    ∃ s t : State, step s = .next t ∧ s.busy = true ∧ t.busy = true ∧ (0x40, 4) ∈ s.hostWrites :=
  ⟨{ before .tick racing with hostWrites := [(0x40, 4)] }, _, rfl, rfl, rfl, by decide⟩

theorem witness_FootprintWriteFaultsTheCompletion_start :
    ∃ s : State, s.rst = false ∧ s.nextEvent = .block ∧ s.busy = true ∧ decode s.latch.cmd = .ok .start ∧
      (0x27, 1) ∈ s.hostWrites :=
  ⟨{ pending 0x00000010#32 configured with hostWrites := [(0x27, 1)] }, by decide⟩

theorem witness_FootprintWriteFaultsTheCompletion_ckBuf :
    ∃ s : State, s.rst = false ∧ s.nextEvent = .block ∧ s.busy = true ∧ decode s.latch.cmd = .ok .ckBuf ∧
      (0x40, 4) ∈ s.hostWrites ∧ rangeBase s.latch.range ≤ 0x43 ∧
      0x43 < rangeBase s.latch.range + rangeLen s.latch.range :=
  ⟨{ pending 0x00000005#32 oddBuffer with hostWrites := [(0x40, 4)] }, by decide⟩

theorem witness_FootprintWriteFaultsTheCompletion_rx :
    ∃ s : State, s.rst = false ∧ s.nextEvent = .block ∧ s.busy = true ∧ decode s.latch.cmd = .ok .rxPush ∧
      (0x67, 1) ∈ s.hostWrites ∧ 0x67 < 0x040 + s.latch.rxLen.toNat :=
  ⟨{ pending 0x00000020#32 (arrived rsa) with hostWrites := [(0x67, 1)] }, by decide⟩

theorem witness_FootprintWriteFaultsTheCompletion_accept :
    ∃ s : State, s.rst = false ∧ s.nextEvent = .block ∧ s.busy = true ∧ decode s.latch.cmd = .ok .rxPush ∧
      (0, 1) ∈ s.hostWrites ∧ s.session = .synSent ∧ s.latchedMatch = .ok (some 500#32) :=
  ⟨{ pending 0x00000020#32 (arrived rsa) with hostWrites := [(0, 1)] }, rfl, rfl, rfl, by decide, by decide, rfl, by rfl⟩

theorem witness_CommandsWriteOnlyTheTxPacket :
    (∃ t, exec .rxPush (arrived rsa) = .next t ∧ t.ram ≠ (arrived rsa).ram) ∧
      ∃ t, exec .start configured = .next t ∧ t.ram ≠ configured.ram :=
  ⟨⟨_, rfl, by decide⟩, _, rfl, by decide⟩

/-- Only the last byte of PKT_RAM but one is written. -/
def almostLast : State := { State.reset with ram := [(0xFFE, 1#8)] }

theorem witness_UnwrittenReadFaults :
    hostReads (before (.read 0x1FFE#32 .half) almostLast) 0x1FFE#32 .half ∧ inWindow 0x1FFE#32 .half ∧
      (0x1FFE#32 : Word).toNat - 0x1000 ≤ 0xFFF ∧ 0xFFF < (0x1FFE#32 : Word).toNat - 0x1000 + AccessSize.half.bytes ∧
      Memory.byteAt almostLast.ram 0xFFF = none :=
  ⟨⟨rfl, .inl rfl⟩, inWindow_of rfl, by decide, by decide, by decide⟩

theorem witness_UnwrittenReadFaults_poll :
    hostReads (before (.poll 0x1FFC#32 1#32 1#32) almostLast) 0x1FFC#32 .word ∧ inWindow 0x1FFC#32 .word ∧
      Memory.byteAt almostLast.ram 0xFFC = none :=
  ⟨⟨rfl, .inr ⟨rfl, _, _, rfl⟩⟩, inWindow_of rfl, by decide⟩

/-- SYN_SENT with a packet of which only the bytes before the TCP flags are written. -/
def flagless : State := { arrived (rsa.take 33) with latch := (arrived rsa).latch }

theorem witness_UnwrittenReadFaults_match :
    flagless.latch.rxLen.toNat ≤ 4032 ∧ Memory.byteAt flagless.ram 0x061 = none ∧
      commandReads flagless .rxPush 0x061 ∧ commandReads flagless .matchTest 0x061 := by
  have h : matcherReads flagless.ram flagless.latch.rxLen.toNat 0x061 :=
    ⟨by decide, .inr ⟨0x45#8, by decide, by decide, by decide, .inr (by decide)⟩⟩
  exact ⟨by decide, by decide, .inr ⟨.inr ⟨rfl, rfl⟩, h⟩, .inr ⟨.inl rfl, h⟩⟩

theorem test_rxPush_unwritten : faultOf (exec .rxPush flagless) = some (.unwrittenByte 0x061) := by decide

theorem witness_UnwrittenReadFaults_ckBuf :
    ∃ s : State, rangeBase s.latch.range + rangeLen s.latch.range ≤ 4096 ∧ commandReads s .ckBuf 4095 ∧
      Memory.byteAt s.ram 4095 = none :=
  ⟨{ State.reset with latch := { Latch.discarded with range := 0x00010FFF#32 } }, by decide,
    .inl ⟨rfl, by decide, by decide⟩, by decide⟩

theorem witness_ResetRestoresEveryRegister :
    (before (.rst true) (session .established)).nextEvent = .rst true ∧
      (before (.rst false) { State.reset with rst := true }).rst = true ∧
      (before (.rst false) { State.reset with rst := true }).nextEvent = .rst false ∧
      (before .tick { State.reset with rst := true }).rst = true ∧
      (before .tick { State.reset with rst := true }).nextEvent = .tick := by decide

theorem witness_StepKeepsTheInvariants :
    State.Inv (before .tick (arrived rsa)) ∧ ∃ t, step (before .tick (arrived rsa)) = .next t :=
  ⟨witness_before_inv _ witness_arrived_inv rfl, _, rfl⟩

theorem witness_ReachableStatesKeepTheSessionInvariants :
    ∃ t, runSteps 1 { State.reset with schedule := [.tick] } = .next t := ⟨_, rfl⟩

theorem witness_StepStopsOnlyWhereTheSpecAsks :
    State.Inv (before (.read 0x1000#32 .byte) (arrived rsa)) ∧
      step (before (.read 0x1000#32 .byte) (arrived rsa)) = .fault (.unwrittenByte 0) :=
  ⟨witness_before_inv _ witness_arrived_inv rfl, rfl⟩

theorem witness_pending_inv {s : State} {w : Word} (h : State.Inv s) (hr : s.rst = false) (l : List (Nat × Nat))
    (hw : ∃ i, decode w = .ok i ∧ s.latch.inRange i = true) : State.Inv { pending w s with hostWrites := l } where
  channel := h.channel
  pending := h.pending
  acceptedOne := h.acceptedOne
  acceptedNone := h.acceptedNone
  acceptedAtMostOne := h.acceptedAtMostOne
  budget := h.budget
  waiting := h.waiting
  ticksBound := h.ticksBound
  noBudget := h.noBudget
  noTicks := h.noTicks
  edges := h.edges
  ram := h.ram
  latched := fun _ => by
    obtain ⟨i, hd, hi⟩ := hw
    exact ⟨i, hd, by cases i <;> exact hi⟩
  inReset := fun hs => absurd (hr.symm.trans hs) (by decide)

theorem witness_StepStopsOnlyWhereTheSpecAsks_footprint :
    State.Inv { pending 0x00000020#32 (arrived rsa) with hostWrites := [(0x67, 1)] } ∧
      step { pending 0x00000020#32 (arrived rsa) with hostWrites := [(0x67, 1)] } = .fault .footprintWritten :=
  ⟨witness_pending_inv witness_arrived_inv rfl _ ⟨.rxPush, rfl, by decide⟩, by rfl⟩

theorem witness_flagless_inv : State.Inv flagless := by
  constructor <;> first | rfl | decide | (intro h; cases h)

theorem witness_StepStopsOnlyWhereTheSpecAsks_command :
    State.Inv { pending 0x00000020#32 flagless with hostWrites := [] } ∧
      step { pending 0x00000020#32 flagless with hostWrites := [] } = .fault (.unwrittenByte 0x061) :=
  ⟨witness_pending_inv witness_flagless_inv rfl _ ⟨.rxPush, rfl, by decide⟩, by rfl⟩

/-! ### The HOST's duties and a run (70_reset R244, R255, R256, R261, R263) -/

/-- Every move of a list keeps every duty, from state `s` on. -/
def keepsAll (r : HostRecord) (s : State) : List Event → Bool
  | [] => true
  | e :: es =>
    hostKeepsDuty r s e &&
      match nextOf (step (s.facing e)) with
      | some t => keepsAll (r.after s e) t es
      | none => false

/-- A session as 70_reset R244 and R255 ask: configure, CTRL, STATUS, START, read the packet, TX_OK. -/
def dutifulMoves : List Event :=
  scriptWr .clientAddr 1#32 ++ scriptWr .serverAddr 2#32 ++ scriptWr .ports 3#32 ++ scriptWr .seqSyn 4#32 ++
    scriptWr .seqAck 5#32 ++ scriptWr .winTtl 6#32 ++ scriptWr .ipId 7#32 ++ scriptWr .timeout 1#32 ++
    scriptWr .ctrl 0#32 ++ scriptAckIrq 0x700#32 ++ scriptCmd .start ++ [.block] ++
    (List.range 10).map (fun k => .read (BitVec.ofNat 32 (0x1000 + 4 * k)) .word) ++ scriptCmd .txOk ++ [.block, .tick]

theorem test_duties_kept : keepsAll HostRecord.empty State.reset dutifulMoves = true := by decide +kernel

theorem test_duty_waitForIdle :
    Duty.keptBy .waitForIdle .empty (pending 0#32 configured) (.write 0x008#32 .word 0#32) = false := by decide

theorem test_duty_keepTxPacket :
    (Duty.keptBy .keepTxPacket .empty (session .synReady) (.write 0x1027#32 .byte 0#32),
      Duty.keptBy .keepTxPacket .empty (session .synReady) (.write 0x1028#32 .byte 0#32)) = (false, true) := by decide

theorem test_duty_keepFootprint :
    Duty.keptBy .keepFootprint .empty (pending 0x00000005#32 oddBuffer) (.write 0x1040#32 .half 0#32) = false := by
  decide

theorem test_duty_programFirst :
    Duty.keptBy .programFirst .empty configured (.write 0x008#32 .word 0x00000010#32) = false := by decide

theorem test_duty_presentFirst :
    (Duty.keptBy .presentFirst .empty (arrived rsa) (.write 0x008#32 .word 0x00000020#32),
      Duty.keptBy .presentFirst { HostRecord.empty with written := [.rxLen] } { arrived rsa with rxLen := 41#16 }
        (.write 0x008#32 .word 0x00000020#32),
      Duty.keptBy .presentFirst { HostRecord.empty with written := [.rxLen] } { arrived rsa with rxLen := 40#16 }
        (.write 0x008#32 .word 0x00000020#32)) = (false, false, true) := by decide

theorem test_duty_readBeforeTxOk :
    (Duty.keptBy .readBeforeTxOk { HostRecord.empty with txRead := [(0, 39)] } (session .synReady)
        (.write 0x008#32 .word 0x00000011#32),
      Duty.keptBy .readBeforeTxOk { HostRecord.empty with txRead := [(36, 4), (0, 36)] } (session .synReady)
        (.write 0x008#32 .word 0x00000011#32)) = (false, true) := by decide

/-- START and a report of its packet with TIMEOUT = 0, then ticks for ever. -/
def demoMoves (n : Nat) : Event :=
  match n with
  | 0 => .write 0x008#32 .word 0x00000010#32
  | 1 => .block
  | 2 => .write 0x008#32 .word 0x00000011#32
  | 3 => .block
  | _ + 4 => .tick

/-- The states of that run from reset. -/
def demoStates : Nat → State
  | 0 => State.reset
  | n + 1 => (nextOf (step ((demoStates n).facing (demoMoves n)))).getD State.reset

theorem demo_over : ∀ k, demoStates (k + 4) = demoStates 4
  | 0 => rfl
  | k + 1 => by
    show (nextOf (step ((demoStates (k + 4)).facing .tick))).getD State.reset = _
    rw [demo_over k]
    rfl

/-- The premises of `sessions_end` can be met together, in a run that starts a session. -/
theorem witness_sessions_end :
    isRun demoMoves demoStates ∧ blockFair demoMoves demoStates ∧ tickLive demoMoves ∧
      hostReports demoMoves demoStates ∧ (demoStates 1).session = .init ∧ (demoStates 2).session = .synReady := by
  refine ⟨fun n => ?_, fun n => ⟨n + 4, by omega, .inr ?_⟩, fun n => ⟨n + 4, by omega, rfl⟩, fun n _ => ?_, rfl, rfl⟩
  · match n with
    | 0 | 1 | 2 | 3 => rfl
    | k + 4 =>
      show step ((demoStates (k + 4)).facing .tick) = .next (demoStates (k + 1 + 4))
      rw [demo_over k, demo_over (k + 1)]
      rfl
  · rw [demo_over]; rfl
  · by_cases h : n ≤ 2
    · exact ⟨2, h, .inr ⟨rfl, .inl rfl⟩⟩
    · exact ⟨n + 4, by omega, .inl (by rw [demo_over]; rfl)⟩

end Sys2Proof.Tests
end

section
/-! PROOF. The reserved opcodes (30_encoding R87): which words the decoder rejects with the cause OPCODE, how many
opcodes these are, and what issuing such a word does. -/

namespace Sys2Proof.Machine

open Sys2Proof.Claims

/-- The bytes without a format are the ranges R87 lists. -/
theorem opcodeFormat_eq_none_iff_reserved :
    ∀ op : Byte, opcodeFormat op = none ↔ reservedOpcode op.toNat := by
  unfold reservedOpcode
  decide

theorem decode_opcode_iff_reserved (w : Word) :
    decode w = .error .opcode ↔ reservedOpcode (w.toNat % 256) := by
  rw [decode_opcode_iff, opcodeFormat_eq_none_iff_reserved, opOf_toNat]

/-- The opcodes of the 13 commands (30_encoding R86). -/
def assignedOpcodes : Finset Nat :=
  {0x00, 0x01, 0x02, 0x03, 0x04, 0x05, 0x10, 0x11, 0x12, 0x20, 0x21, 0x22, 0x30}

theorem card_assignedOpcodes : assignedOpcodes.card = 13 := rfl

theorem assignedOpcodes_subset_range : assignedOpcodes ⊆ Finset.range 256 := by decide

theorem reservedOpcode_iff_not_assigned {op : Nat} (h : op < 256) :
    reservedOpcode op ↔ op ∉ assignedOpcodes := by
  simp only [reservedOpcode, assignedOpcodes, Finset.mem_insert, Finset.mem_singleton]
  omega

/-- Of the 256 opcodes all but the 13 assigned ones decode to the error OPCODE. -/
theorem length_filter_decode_opcode :
    ((List.range 256).filter fun op => decode (BitVec.ofNat 32 op) = .error .opcode).length = 243 := by
  have hf : (Finset.range 256).filter (fun op => decode (BitVec.ofNat 32 op) = .error .opcode) =
      Finset.range 256 \ assignedOpcodes := by
    rw [Finset.sdiff_eq_filter]
    refine Finset.filter_congr fun op hop => ?_
    have hop : op < 256 := Finset.mem_range.1 hop
    rw [decode_opcode_iff_reserved, BitVec.toNat_ofNat, Nat.mod_eq_of_lt (show op < 2 ^ 32 by omega),
      Nat.mod_eq_of_lt hop, reservedOpcode_iff_not_assigned hop]
  calc _ = ((Finset.range 256).filter fun op => decode (BitVec.ofNat 32 op) = .error .opcode).card := by
        rw [← List.countP_eq_length_filter]; exact Nat.count_eq_card_filter_range _ _
    _ = 256 - 13 := by
        rw [hf, Finset.card_sdiff_of_subset assignedOpcodes_subset_range, Finset.card_range, card_assignedOpcodes]

/-- With BUSY = 0 a word that does not decode records its cause and does nothing else (43_control R191). -/
theorem issue_of_decode_error {w : Word} {s : State} {e : DecodeError} (hb : s.busy = false)
    (hd : decode w = .error e) : issue w s = cmdError (Cause.ofDecode e) w s := by
  simp [issue, hb, hd]

/-- Settles O4: the decoder's cause OPCODE is a missing format, the bytes without one are the ranges of R87, and
issue turns the cause into one recorded error. -/
theorem reservedOpcodeIsRejected : Obligations.ReservedOpcodeIsRejected := by
  refine ⟨decode_opcode_iff_reserved, length_filter_decode_opcode, fun s w hb hw => ?_⟩
  have hi : issue w s = cmdError .opcode w s :=
    issue_of_decode_error hb ((decode_opcode_iff_reserved w).2 hw)
  rw [hostWrite_register, writeReg_cmd, hi]
  rfl

end Sys2Proof.Machine
end

section
/-! PROOF. The checksum commands and the session (40_checksum R114): which commands these are, that the ones
without a PKT_RAM read always complete, that STATE takes no part in their effect, and that they touch nothing but
the engine's own fields. -/

namespace Sys2Proof.Machine

open Sys2Proof.Claims

/-- A command of the Checksum Engine (40_checksum R103 to R107). -/
inductive IsChecksumCommand : Instr → Prop where
  | ckClr : IsChecksumCommand .ckClr
  | ckAddw (v : Half) : IsChecksumCommand (.ckAddw v)
  | ckAddb (v : Byte) : IsChecksumCommand (.ckAddb v)
  | ckFin : IsChecksumCommand .ckFin
  | ckBuf : IsChecksumCommand .ckBuf

theorem isChecksumCommand_iff {i : Instr} : IsChecksumCommand i ↔
    i ∈ [.ckClr, .ckFin, .ckBuf] ∨ (∃ v, i = .ckAddw v) ∨ ∃ v, i = .ckAddb v := by
  constructor
  · rintro (_ | v | v | _ | _) <;> simp
  · simp only [List.mem_cons, List.not_mem_nil, or_false]
    rintro ((rfl | rfl | rfl) | ⟨v, rfl⟩ | ⟨v, rfl⟩) <;> constructor

/-- CK_BUF over a written range (40_checksum R107). -/
theorem exec_ckBuf_of_read_ok {s : State} {bytes : List Byte}
    (h : readBytes s.ram (rangeBase s.latch.range) (rangeLen s.latch.range) = .ok bytes) :
    exec .ckBuf s = .next (loadEngine bytes s) := by
  simp [exec, execCkBuf, h]

/-- CK_BUF over a range that cannot be read (70_reset R241). -/
theorem exec_ckBuf_of_read_error {s : State} {f : Fault}
    (h : readBytes s.ram (rangeBase s.latch.range) (rangeLen s.latch.range) = .error f) :
    exec .ckBuf s = .fault f := by
  simp [exec, execCkBuf, h]

theorem exec_next_of_isChecksumCommand {i : Instr} (hi : IsChecksumCommand i) (hb : i ≠ .ckBuf) (s : State) :
    ∃ t, exec i s = .next t := by
  cases hi with
  | ckBuf => exact absurd rfl hb
  | ckClr | ckAddw v | ckAddb v | ckFin => exact ⟨_, rfl⟩

/-- A checksum command commutes with a change of STATE: even CK_BUF, which may fault, reads only PKT_RAM and the
latched range. -/
theorem exec_withSession_of_isChecksumCommand {i : Instr} (hi : IsChecksumCommand i) (s : State) (x : Session) :
    exec i { s with session := x } = mapNext (fun t => { t with session := x }) (exec i s) := by
  cases hi with
  | ckClr | ckAddw v | ckAddb v | ckFin => rfl
  | ckBuf =>
    cases hr : readBytes s.ram (rangeBase s.latch.range) (rangeLen s.latch.range) with
    | ok bytes =>
      rw [exec_ckBuf_of_read_ok hr, exec_ckBuf_of_read_ok (s := { s with session := x }) hr]
      rfl
    | error f =>
      rw [exec_ckBuf_of_read_error hr, exec_ckBuf_of_read_error (s := { s with session := x }) hr]
      rfl

/-- The frame of the checksum commands: only CK_ACC, ACC_OVF and CK_RESULT may change (40_checksum R103 to R107). -/
theorem exec_frame_of_isChecksumCommand {i : Instr} {s t : State} (hi : IsChecksumCommand i)
    (h : exec i s = .next t) : ∃ acc ovf res, t = { s with ckAcc := acc, accOvf := ovf, ckResult := res } := by
  cases hi with
  | ckClr | ckAddw v | ckAddb v | ckFin | ckBuf =>
    cases exec_effect h
    exact ⟨_, _, _, rfl⟩

/-- Settles O22: the session's fields and ERR_P lie outside the checksum commands' frame, and STATE is none of
their inputs. -/
theorem checksumCommandsLeaveTheSession : Obligations.ChecksumCommandsLeaveTheSession := by
  intro i s hi
  have hi : IsChecksumCommand i := isChecksumCommand_iff.2 hi
  refine ⟨fun hb => exec_next_of_isChecksumCommand hi hb s, exec_withSession_of_isChecksumCommand hi s,
    fun t h => ?_⟩
  obtain ⟨acc, ovf, res, rfl⟩ := exec_frame_of_isChecksumCommand hi h
  exact ⟨rfl, rfl, rfl, rfl, rfl, rfl⟩

end Sys2Proof.Machine
end

section
/-! PROOF. The structural rejections of `Match` (42_matcher R163): its verdict from the first byte of a packet, and
that it depends on the bytes it reads alone. -/

namespace Sys2Proof.Machine

/-- A packet of fewer than 40 bytes is rejected unread. -/
theorem matchPacket_of_lt {n : Nat} (h : n < 40) (cfg : Cfg) (m : Memory) : matchPacket cfg n m = .ok none :=
  if_pos h

/-- With its first byte unwritten, a packet of 40 bytes or more has no verdict (70_reset R241). -/
theorem matchPacket_of_byteAt_none {cfg : Cfg} {n : Nat} {m : Memory} (hn : 40 ≤ n)
    (hb : Memory.byteAt m 0x040 = none) : matchPacket cfg n m = .error (.unwrittenByte 0x040) := by
  have hr : readByte m Config.rxBase = .error (.unwrittenByte 0x040) := by
    simp [readByte, Config.rxBase, Config.pktRamBytes, hb]
  simp only [matchPacket, if_neg (Nat.not_lt.2 hn), hr]

/-- The first byte of a packet gives its header length: one that is below 5 words or leaves no room for a TCP header
is rejected, any other sends `Match` on to the TCP part. -/
theorem matchPacket_of_byteAt_some {cfg : Cfg} {n : Nat} {m : Memory} {b : Byte} (hn : 40 ≤ n)
    (hb : Memory.byteAt m 0x040 = some b) :
    matchPacket cfg n m =
      if (b.extractLsb' 0 4).toNat < 5 ∨ n < 4 * (b.extractLsb' 0 4).toNat + 20 then .ok none
      else matchTcp cfg m (0x040 + 4 * (b.extractLsb' 0 4).toNat) := by
  have hr : readByte m Config.rxBase = .ok b := readByte_of_byteAt (by decide) hb
  simp only [matchPacket, if_neg (Nat.not_lt.2 hn), hr]
  by_cases h5 : (b.extractLsb' 0 4).toNat < 5
  · rw [if_pos h5, if_pos (.inl h5)]
  · simp only [h5, false_or, if_false]

/-- A 16-bit read depends on its two bytes alone. -/
theorem readBE16_congr {m m' : Memory} {o : Nat}
    (h : ∀ u, o ≤ u → u < o + 2 → Memory.byteAt m' u = Memory.byteAt m u) : readBE16 m' o = readBE16 m o := by
  simp only [readBE16, readByte_congr (h o (by omega) (by omega)), readByte_congr (h (o + 1) (by omega) (by omega))]

/-- A 32-bit read depends on its four bytes alone. -/
theorem readBE32_congr {m m' : Memory} {o : Nat}
    (h : ∀ u, o ≤ u → u < o + 4 → Memory.byteAt m' u = Memory.byteAt m u) : readBE32 m' o = readBE32 m o := by
  have h0 : readBE16 m' o = readBE16 m o := readBE16_congr fun u _ _ => h u (by omega) (by omega)
  have h2 : readBE16 m' (o + 2) = readBE16 m (o + 2) := readBE16_congr fun u _ _ => h u (by omega) (by omega)
  simp only [readBE32, h0, h2]

/-- The TCP part of `Match` depends on the ports, sequence, acknowledgment and flags alone (42_matcher R162). -/
theorem matchTcp_congr {cfg : Cfg} {m m' : Memory} {t : Nat}
    (h : ∀ u, (t ≤ u ∧ u < t + 12) ∨ u = t + 13 → Memory.byteAt m' u = Memory.byteAt m u) :
    matchTcp cfg m' t = matchTcp cfg m t := by
  have h0 : readBE16 m' t = readBE16 m t := readBE16_congr fun u _ _ => h u (by omega)
  have h2 : readBE16 m' (t + 2) = readBE16 m (t + 2) := readBE16_congr fun u _ _ => h u (by omega)
  have h4 : readBE32 m' (t + 4) = readBE32 m (t + 4) := readBE32_congr fun u _ _ => h u (by omega)
  have h8 : readBE32 m' (t + 8) = readBE32 m (t + 8) := readBE32_congr fun u _ _ => h u (by omega)
  have h13 : readByte m' (t + 13) = readByte m (t + 13) := readByte_congr (h _ (.inr rfl))
  simp only [matchTcp, h0, h2, h4, h8, h13]

/-- `Match` depends on the bytes it reads alone (42_matcher R162, R163). -/
theorem matchPacket_congr {cfg : Cfg} {n : Nat} {m m' : Memory}
    (h : ∀ u, matcherReads m n u → Memory.byteAt m' u = Memory.byteAt m u) :
    matchPacket cfg n m' = matchPacket cfg n m := by
  rcases Nat.lt_or_ge n 40 with hn | hn
  · rw [matchPacket_of_lt hn, matchPacket_of_lt hn]
  have first : Memory.byteAt m' 0x040 = Memory.byteAt m 0x040 := h _ ⟨hn, .inl rfl⟩
  cases hb : Memory.byteAt m 0x040 with
  | none => rw [matchPacket_of_byteAt_none hn hb, matchPacket_of_byteAt_none hn (first.trans hb)]
  | some b =>
    rw [matchPacket_of_byteAt_some hn hb, matchPacket_of_byteAt_some hn (first.trans hb)]
    split
    · rfl
    · exact matchTcp_congr fun u hu => h u ⟨hn, .inr ⟨b, hb, by omega, by omega, hu⟩⟩

/-- RX_PUSH in SYN_SENT discards a packet of verdict 0 and goes on waiting (42_matcher R170). -/
theorem exec_rxPush_of_rejected {s : State} (hs : s.session = .synSent) (hv : s.latchedMatch = .ok none) :
    exec .rxPush s = .next { s with lastMatch := false } := by
  simp only [exec, execRxPush, if_pos hs, hv]

/-- Settles O30: the verdict follows from the packet's first byte where the packet is malformed, and `Match` depends
on bytes of the packet alone. -/
theorem malformedPacketsAreRejected : Obligations.MalformedPacketsAreRejected := by
  refine fun cfg n m => ⟨fun hn => matchPacket_of_lt hn cfg m, fun b hn hb h5 => ?_, fun b hn hb hl => ?_,
    fun m' h => matchPacket_congr fun u hu => ?_, fun s => exec_rxPush_of_rejected⟩
  · rw [matchPacket_of_byteAt_some hn hb, if_pos (.inl h5)]
  · rw [matchPacket_of_byteAt_some hn hb, if_pos (.inr hl)]
  · obtain ⟨hlo, hhi⟩ := matcherReads_range hu
    obtain ⟨k, rfl⟩ := Nat.exists_eq_add_of_le hlo
    exact h k (by omega)

end Sys2Proof.Machine
end

section
/-! PROOF. The issue of the commands that read a received packet (42_matcher R168). -/

namespace Sys2Proof.Machine

/-- With BUSY = 0 a word that decodes is latched if its operands are in range, and errs with RANGE if not
(43_control R191). -/
theorem issue_of_decode_ok {w : Word} {s : State} {i : Instr} (hb : s.busy = false) (hd : decode w = .ok i) :
    issue w s = if rangeError i s then cmdError .range w s else latchCommand w s := by
  simp [issue, hb, hd]

/-- RX_PUSH and MATCH_TEST are checked against RX_CAP at issue, whatever STATE is. -/
theorem issue_receive {i : Instr} {s : State} (hi : i = .rxPush ∨ i = .matchTest) (hb : s.busy = false) :
    issue (encode i) s =
      if 4032 < s.rxLen.toNat then cmdError .range (encode i) s else latchCommand (encode i) s := by
  have hd : decode (encode i) = .ok i := by rcases hi with rfl | rfl <;> rfl
  have hr : rangeError i s = decide (4032 < s.rxLen.toNat) := by rcases hi with rfl | rfl <;> rfl
  simp only [issue_of_decode_ok hb hd, hr, decide_eq_true_eq]

/-- Settles O31: at most 4032 the issue latches the command, above it records the one error. -/
theorem rxLenAboveCapIsRefusedAtIssue : Obligations.RxLenAboveCapIsRefusedAtIssue := by
  intro s i hi hb
  rw [hostWrite_register, writeReg_cmd, issue_receive hi hb]
  constructor
  · intro hl
    rw [if_neg (Nat.not_lt.2 hl)]
    exact ⟨rfl, rfl⟩
  · intro hl
    rw [if_pos hl]
    rfl

end Sys2Proof.Machine
end

section
/-! PROOF. One command word, one cause (60_exceptions R203): what issue answers in each of its cases, which words have
the cause RSVD, and that a completion records no error but STATE. -/

namespace Sys2Proof.Machine

open Sys2Proof.Claims

/-- A word written while a command is pending records BUSY whatever it is (43_control R191). -/
theorem issue_of_busy {s : State} (hb : s.busy = true) (w : Word) : issue w s = cmdError .busy w s :=
  if_pos hb

/-- A word that decodes is legal by the masks of the formats (30_encoding R88). -/
theorem wellFormedWord_of_decode_ok {w : Word} {i : Instr} (h : decode w = .ok i) : wellFormedWord w = true := by
  unfold wellFormedWord
  rw [setWidth_eq_opOf]
  by_cases h2 : opOf w = 0x02#8
  · rw [decode, if_pos h2, decodeW] at h
    split at h
    · simpa [h2, opcodeFormat] using (maskW_eq_zero w).2 ‹_›
    · cases h
  by_cases h3 : opOf w = 0x03#8
  · rw [decode, if_neg h2, if_pos h3, decodeB] at h
    split at h
    · simpa [h3, opcodeFormat] using (maskB_eq_zero w).2 ‹_›
    · cases h
  rw [decode, if_neg h2, if_neg h3] at h
  cases hk : opcodesN.lookup (opOf w) with
  | none => simp [hk] at h
  | some j =>
    have hf : opcodeFormat (opOf w) = some .n := (lookup_opcodesN_isSome _ h2 h3).1 (by simp [hk])
    simp only [hk, decodeN] at h
    split at h
    · simpa [hf] using (maskN_eq_zero w).2 ‹_›
    · cases h

/-- An ill-formed word whose opcode is assigned has a nonzero reserved bit (30_encoding R88). -/
theorem decode_rsvd_of_not_wellFormed {w : Word} (hop : ¬ reservedOpcode (w.toNat % 256))
    (hwf : wellFormedWord w = false) : decode w = .error .rsvd := by
  cases hd : decode w with
  | ok i => simp [wellFormedWord_of_decode_ok hd] at hwf
  | error e =>
    cases e with
    | opcode => exact absurd ((decode_opcode_iff_reserved w).1 hd) hop
    | rsvd => rfl

/-- A completion leaves the error record as it is, or records STATE for its own word (60_exceptions R201, R202). -/
theorem exec_error_record {i : Instr} {s t : State} (h : exec i s = .next t) :
    t.errP = s.errP ∨ t = cmdError .state s.latch.cmd s := by
  cases exec_effect h with
  | startErr | txOkErr | txFailErr | srstErr => exact .inr rfl
  | _ => exact .inl rfl

/-- Settles O7: with BUSY = 1 issue records BUSY, with BUSY = 0 the decoder's cause, then RANGE, else it latches the
command; a completion that raises ERR_P records STATE. -/
theorem oneCauseByPriority : Obligations.OneCauseByPriority := by
  refine ⟨fun s w he => ?_, fun i s t he h ht => ?_, fun s he hb => ?_, fun s he hb => ?_⟩
  · rw [hostWrite_register, writeReg_cmd]
    refine ⟨fun hb => ?_, fun hb hop => ?_, fun hb hop hwf => ?_, fun i hb hd hr => ?_, fun hb => ?_,
      fun i hb hd hr => ?_⟩
    · simp [issue_of_busy hb, he]
    · simp [issue_of_decode_error hb ((decode_opcode_iff_reserved w).2 hop), he, hb, Cause.ofDecode]
    · simp [issue_of_decode_error hb (decode_rsvd_of_not_wellFormed hop hwf), he, hb, Cause.ofDecode]
    · simp [issue_of_decode_ok hb hd, hr, he, hb]
    · simp [issue_of_busy hb, hb]
    · simp [issue_of_decode_ok hb hd, hr, he]
  · rcases exec_error_record h with hp | rfl
    · simp [hp, he] at ht
    · simp [he]
  · simp [issue_of_busy hb, he]
  · have hd : decode 0x00000110#32 = .error .rsvd := by decide
    simp [issue_of_decode_error hb hd, he, Cause.ofDecode]

end Sys2Proof.Machine
end

section
/-! PROOF. The pin irq_o (60_exceptions R220): the bits of STATUS and CTRL it is made of. -/

namespace Sys2Proof.Machine

/-- A flag placed at bit `k` of a word is that bit alone. -/
theorem flagBit_getLsbD (b : Bool) {k j : Nat} (hj : j < 32) :
    (flagBit b k).getLsbD j = (b && decide (j = k)) := by
  rw [flagBit, BitVec.getLsbD_shiftLeft, BitVec.getLsbD_setWidth, BitVec.getLsbD_ofBool]
  rcases Nat.lt_trichotomy j k with h | rfl | h
  · simp [h, Nat.ne_of_lt h]
  · simp [hj]
  · simp [show j - k ≠ 0 by omega, show j ≠ k by omega]

/-- The session code takes only bits [2:0] of STATUS (10_state R26). -/
theorem statusWord_getLsbD (s : State) {j : Nat} (h3 : 3 ≤ j) (hj : j < 32) :
    s.statusWord.getLsbD j =
      ((s.busy && decide (j = 3)) || (s.chanOwn && decide (j = 4)) || (s.txPend && decide (j = 5)) ||
        (s.lastMatch && decide (j = 6)) || (s.accOvf && decide (j = 7)) || (s.doneP && decide (j = 8)) ||
        (s.txreqP && decide (j = 9)) || (s.errP && decide (j = 10))) := by
  have hc : s.session.code.getLsbD j = false := BitVec.getLsbD_of_ge _ _ h3
  simp [State.statusWord, flagBit_getLsbD _ hj, hc]

/-- Settles O42: STATUS[10:8] are the pending bits and CTRL[2:0] their enables. -/
theorem irqIsTheOrOfEnabledPendingBits : Obligations.IrqIsTheOrOfEnabledPendingBits := by
  intro s
  simp (disch := decide) only [readReg, statusWord_getLsbD]
  simp [State.irq, State.doneIe, State.txreqIe, State.errIe, or_assoc]

end Sys2Proof.Machine
end

section
/-! PROOF. HOST accesses and the error response (20_memory R66, 60_exceptions R210, R211): which accesses are legal,
what a legal one is answered, and that an illegal one changes nothing. -/

namespace Sys2Proof.Machine

open Sys2Proof.Claims

/-- The legal accesses are those that R210 does not list as bus errors (20_memory R66). -/
theorem accessOk_iff {addr : Word} {size : AccessSize} : accessOk addr size = true ↔
    addr.toNat % size.bytes = 0 ∧ (addr.toNat < 0x1000 → size = .word) ∧ addr.toNat ≤ 0x1FFF := by
  simp only [accessOk, Config.windowBase, Config.apertureEnd, Bool.and_eq_true, decide_eq_true_eq]
  refine and_congr_right fun _ => ?_
  by_cases hr : addr.toNat < 0x1000
  · simp only [hr, if_true, decide_eq_true_eq, true_imp_iff, iff_self_and]
    omega
  · simp only [hr, if_false, decide_eq_true_eq, false_imp_iff, true_and]
    omega

theorem hostRead_of_not_ok {addr : Word} {size : AccessSize} (h : accessOk addr size = false) (s : State) :
    hostRead addr size s = .next (answer (.readErr 0#32) s) := by
  simp [hostRead, h]

theorem hostWrite_of_not_ok {addr : Word} {size : AccessSize} (h : accessOk addr size = false) (d : Word)
    (s : State) : hostWrite addr size d s = answer .writeErr s := by
  simp [hostWrite, h]

/-- A scheduled HOST read out of reset is the bus read (00_scope R6). -/
theorem step_read {s : State} {addr : Word} {size : AccessSize} (hr : s.rst = false)
    (he : s.nextEvent = .read addr size) : step s = hostRead addr size (afterTaking s) := by
  rw [step_awake hr, he]; rfl

/-- A scheduled HOST write out of reset is the bus write (00_scope R6). -/
theorem step_write {s : State} {addr d : Word} {size : AccessSize} (hr : s.rst = false)
    (he : s.nextEvent = .write addr size d) : step s = .next (hostWrite addr size d (afterTaking s)) := by
  rw [step_awake hr, he]; rfl

/-- Settles O46: such an access is not legal, so its step only answers with the error. -/
theorem busErrorChangesNothing : Obligations.BusErrorChangesNothing := by
  intro addr size hbad s hr
  have hok : accessOk addr size = false := by
    rw [← Bool.not_eq_true, accessOk_iff]
    rintro ⟨halign, hword, hend⟩
    rcases hbad with h | ⟨hreg, hsize⟩ | h
    · exact h halign
    · exact hsize (hword hreg)
    · omega
  refine ⟨fun he => ?_, fun d he => ?_⟩
  · rw [step_read hr he, hostRead_of_not_ok hok]; rfl
  · rw [step_write hr he, hostWrite_of_not_ok hok]; rfl

/-- The registers end at 0x04F (10_state R22). -/
theorem regOffset_lt (r : Reg) : r.offset.toNat < 0x050 := by cases r <;> decide

/-- From 0x050 on every offset is reserved (10_state R48). -/
theorem atOffset_of_ge {o : Nat} (h : 0x050 ≤ o) : Reg.atOffset o = none := by
  rw [Option.eq_none_iff_forall_ne_some]
  intro r hr
  have ho : o = r.offset.toNat := atOffset_some hr
  have hlt : r.offset.toNat < 0x050 := regOffset_lt r
  omega

/-- A read-only register ignores a write (10_state R23). -/
theorem writeReg_readOnly {r : Reg} (h : r ∈ readOnlyRegs) (w : Word) (s : State) : writeReg r w s = s := by
  simp only [readOnlyRegs, List.mem_cons, List.not_mem_nil, or_false] at h
  rcases h with rfl | rfl | rfl | rfl | rfl | rfl | rfl <;> rfl

section
variable {a : Word} (h50 : 0x050 ≤ a.toNat) (hFFC : a.toNat ≤ 0xFFC) (hal : a.toNat % 4 = 0)
include h50 hFFC hal

theorem legal_of_reserved : accessOk a .word = true ∧ inRegisters a = true :=
  ⟨accessOk_iff.2 ⟨hal, fun _ => rfl, by omega⟩, decide_eq_true (show a.toNat < 0x1000 by omega)⟩

/-- A reserved offset reads 0 (10_state R48). -/
theorem hostRead_reserved (s : State) : hostRead a .word s = .next (answer (.data 0#32) s) := by
  obtain ⟨hok, hreg⟩ := legal_of_reserved h50 hFFC hal
  simp [hostRead, hok, hreg, readRegisterAt, atOffset_of_ge h50]

/-- A reserved offset ignores a write (10_state R48). -/
theorem hostWrite_reserved (w : Word) (s : State) : hostWrite a .word w s = answer .written s := by
  obtain ⟨hok, hreg⟩ := legal_of_reserved h50 hFFC hal
  simp [hostWrite, hok, hreg, writeRegisterAt, atOffset_of_ge h50]

end

/-- A legal write is accepted. -/
theorem hostWrite_bus_of_ok {a : Word} {size : AccessSize} (hok : accessOk a size = true) (w : Word) (s : State) :
    (hostWrite a size w s).bus = .written := by
  rw [hostWrite, if_pos hok]
  split <;> rfl

/-- A legal read that goes on returns data. -/
theorem hostRead_bus_of_ok {a : Word} {size : AccessSize} {s t : State} (hok : accessOk a size = true)
    (h : hostRead a size s = .next t) : ∃ d, t.bus = .data d := by
  rw [hostRead, if_pos hok] at h
  split at h
  · cases h; exact ⟨_, rfl⟩
  · split at h
    · cases h
    · cases h; exact ⟨_, rfl⟩

/-- Settles O49: read-only registers and reserved offsets ignore writes, CMD and reserved offsets read 0, and a legal
access is never answered with an error. -/
theorem silentAccessesAreLegal : Obligations.SilentAccessesAreLegal := by
  refine fun s hr => ⟨fun r hro w he => ?_, fun a w h50 hFFC hal => ⟨fun he => ?_, fun he => ?_⟩, fun he => ?_,
    fun a size hal hword hend => ?_⟩
  · rw [step_write hr he, hostWrite_register, writeReg_readOnly hro]; rfl
  · rw [step_write hr he, hostWrite_reserved h50 hFFC hal]; rfl
  · rw [step_read hr he, hostRead_reserved h50 hFFC hal]; rfl
  · rw [step_read hr he, hostRead_register]; rfl
  · have hok : accessOk a size = true := accessOk_iff.2 ⟨hal, hword, hend⟩
    refine ⟨fun w he => ⟨_, step_write hr he, hostWrite_bus_of_ok hok w _⟩, fun he t h => ?_⟩
    rw [step_read hr he] at h
    exact hostRead_bus_of_ok hok h

end Sys2Proof.Machine
end

section
/-! PROOF. The operands of a pending command (43_control R191, 70_reset R251): a completion reads the latch and none
of the registers the latch was copied from, and it writes none of them, so it commutes with any change of these. -/

namespace Sys2Proof.Machine

open Sys2Proof.Claims

section
variable (s u : State)

/-! ### What a completion branches on -/

@[simp] theorem withHostRegs_session : (withHostRegs s u).session = s.session := rfl
@[simp] theorem withHostRegs_latch : (withHostRegs s u).latch = s.latch := rfl
@[simp] theorem withHostRegs_ram : (withHostRegs s u).ram = s.ram := rfl
@[simp] theorem withHostRegs_rxErrCnt : (withHostRegs s u).rxErrCnt = s.rxErrCnt := rfl
@[simp] theorem withHostRegs_latchedMatch : (withHostRegs s u).latchedMatch = s.latchedMatch := rfl

/-! ### What a completion does -/

@[simp] theorem mapNext_next (f : State → State) : mapNext f (.next s) = .next (f s) := rfl
@[simp] theorem mapNext_fault (f : State → State) (r : Fault) : mapNext f (.fault r) = .fault r := rfl

@[simp] theorem cmdError_withHostRegs (c : Cause) (w : Word) :
    cmdError c w (withHostRegs s u) = withHostRegs (cmdError c w s) u := rfl

@[simp] theorem setChanOwn_withHostRegs (level : Bool) :
    setChanOwn level (withHostRegs s u) = withHostRegs (setChanOwn level s) u := rfl

@[simp] theorem openSession_withHostRegs : openSession (withHostRegs s u) = withHostRegs (openSession s) u := rfl

@[simp] theorem offerPacket_withHostRegs (st : Session) :
    offerPacket st (withHostRegs s u) = withHostRegs (offerPacket st s) u := rfl

/-- Stated for any bytes and memory, so that the check of `build` never evaluates the packet. -/
theorem loadEngine_ram_withHostRegs (bytes : List Byte) (m : Memory) :
    loadEngine bytes { withHostRegs s u with ram := m } = withHostRegs (loadEngine bytes { s with ram := m }) u := rfl

@[simp] theorem build_withHostRegs (k : PacketKind) (cfg : Cfg) (peerSeq : Word) :
    build k cfg peerSeq (withHostRegs s u) = withHostRegs (build k cfg peerSeq s) u :=
  loadEngine_ram_withHostRegs s u _ _

@[simp] theorem acceptSynAck_withHostRegs (seq : Word) :
    acceptSynAck seq (withHostRegs s u) = withHostRegs (acceptSynAck seq s) u := by
  simp only [acceptSynAck, ← offerPacket_withHostRegs, ← build_withHostRegs]
  rfl

/-- The wait's length is the latched TIMEOUT, not the register (41_builder R142). -/
@[simp] theorem beginWait_withHostRegs : beginWait (withHostRegs s u) = withHostRegs (beginWait s) u := by
  by_cases h : s.latch.cfg.timeout = 0#32 <;> simp [beginWait, h] <;> rfl

/-! ### Completions -/

/-- A completion commutes with a change of the registers the latch is copied from: it branches on STATE, the latch,
PKT_RAM and RXERR_CNT alone, and each branch leaves those registers as they are. -/
theorem exec_withHostRegs (i : Instr) :
    exec i (withHostRegs s u) = mapNext (withHostRegs · u) (exec i s) := by
  cases i with
  | nop | ckClr | ckAddw v | ckAddb v | ckFin => rfl
  | ckBuf =>
    simp only [exec, execCkBuf, withHostRegs_ram, withHostRegs_latch]
    cases readBytes s.ram (rangeBase s.latch.range) (rangeLen s.latch.range) <;> rfl
  | start => by_cases h : s.session = .init <;> simp [exec, execStart, h]
  | txOk =>
    simp only [exec, execTxOk, withHostRegs_session, beginWait_withHostRegs]
    cases s.session <;> rfl
  | txFail =>
    by_cases h : s.session = .synReady ∨ s.session = .ackReady
    · simp [exec, execTxFail, h]; rfl
    · simp [exec, execTxFail, h]
  | rxPush =>
    by_cases h : s.session = .synSent
    · rcases hv : s.latchedMatch with f | _ | seq
      · simp [exec, execRxPush, h, hv]
      · simp [exec, execRxPush, h, hv]; rfl
      · simp [exec, execRxPush, h, hv]
    · simp [exec, execRxPush, h]
  | rxErr =>
    by_cases h : s.rxErrCnt = 0xFFFFFFFF#32
    · simp [exec, execRxErr, h]
    · simp [exec, execRxErr, h]; rfl
  | matchTest =>
    simp only [exec, execMatchTest, withHostRegs_latchedMatch]
    cases s.latchedMatch <;> rfl
  | srst =>
    by_cases h : s.session.idleOrTerminal
    · simp [exec, execSrst, h]; rfl
    · simp [exec, execSrst, h]

end

/-- Settles O12: a completion commutes with any change of the registers the latch is copied from. -/
theorem latchedOperandsAreFixed : Obligations.LatchedOperandsAreFixed :=
  fun i s u => exec_withHostRegs s u i

end Sys2Proof.Machine
end

section
/-! PROOF. The decoder against the encoder and against the masks of the formats (30_encoding R82 to R91): decoding an
encoded command, which words decode, and that a word that decodes is the encoding of its command. -/

namespace Sys2Proof

/-! ### The fields of an encoded command -/

theorem opOf_encode_ckAddw (v : Half) : opOf (encode (.ckAddw v)) = 0x02#8 := by
  apply BitVec.eq_of_toNat_eq
  rw [opOf_toNat, encode_ckAddw_toNat]
  simp only [BitVec.toNat_ofNat]
  omega

theorem opOf_encode_ckAddb (v : Byte) : opOf (encode (.ckAddb v)) = 0x03#8 := by
  apply BitVec.eq_of_toNat_eq
  rw [opOf_toNat, encode_ckAddb_toNat]
  simp only [BitVec.toNat_ofNat]
  omega

theorem decode_encode_ckAddw (v : Half) : decode (encode (.ckAddw v)) = .ok (.ckAddw v) := by
  have he := encode_ckAddw_toNat v
  have hv : v.toNat < 65536 := v.isLt
  have operand : (encode (.ckAddw v)).extractLsb' 16 16 = v := by
    apply BitVec.eq_of_toNat_eq
    rw [toNat_extract, he]
    omega
  have reserved : (encode (.ckAddw v)).extractLsb' 8 8 = 0#8 := by
    rw [extract_eq_zero_iff_toNat, he]
    omega
  rw [decode, if_pos (opOf_encode_ckAddw v), decodeW, if_pos reserved, operand]

theorem decode_encode_ckAddb (v : Byte) : decode (encode (.ckAddb v)) = .ok (.ckAddb v) := by
  have he := encode_ckAddb_toNat v
  have hv : v.toNat < 256 := v.isLt
  have operand : (encode (.ckAddb v)).extractLsb' 16 8 = v := by
    apply BitVec.eq_of_toNat_eq
    rw [toNat_extract, he]
    omega
  have reserved : (encode (.ckAddb v)).extractLsb' 24 8 = 0#8 ∧ (encode (.ckAddb v)).extractLsb' 8 8 = 0#8 := by
    simp only [extract_eq_zero_iff_toNat, he]
    omega
  have other : opOf (encode (.ckAddb v)) ≠ 0x02#8 := by
    rw [opOf_encode_ckAddb]
    decide
  rw [decode, if_neg other, if_pos (opOf_encode_ckAddb v), decodeB, if_pos reserved, operand]

/-- Settles O2: an operand is read back from the bits the encoder put it in; a command without one is a fixed
word. -/
theorem decodeOfEncodeIsTheCommand : Obligations.DecodeOfEncodeIsTheCommand := by
  intro i
  cases i with
  | ckAddw v => exact decode_encode_ckAddw v
  | ckAddb v => exact decode_encode_ckAddb v
  | nop | ckClr | ckFin | ckBuf | start | txOk | txFail | rxPush | rxErr | matchTest | srst => rfl

/-- Settles O1: each word is the encoding of its command. -/
theorem opcodeMapWordsDecode : Obligations.OpcodeMapWordsDecode :=
  have word : Obligations.DecodeOfEncodeIsTheCommand := decodeOfEncodeIsTheCommand
  ⟨word .nop, word .ckClr, word (.ckAddw 0xF203#16), word (.ckAddb 0x03#8), word .ckFin, word .ckBuf, word .start,
    word .txOk, word .txFail, word .rxPush, word .rxErr, word .matchTest, word .srst⟩

/-! ### The words that decode -/

/-- A word with an assigned opcode whose reserved bits are zero decodes (30_encoding R88). -/
theorem decode_ok_of_wellFormedWord {w : Word} (h : wellFormedWord w = true) : ∃ i, decode w = .ok i := by
  rw [wellFormedWord, setWidth_eq_opOf] at h
  by_cases h2 : opOf w = 0x02#8
  · have hz : w &&& Format.w.reservedMask = 0#32 := by simpa [h2, opcodeFormat] using h
    exact ⟨_, by rw [decode, if_pos h2, decodeW, if_pos ((maskW_eq_zero w).1 hz)]⟩
  by_cases h3 : opOf w = 0x03#8
  · have hz : w &&& Format.b.reservedMask = 0#32 := by simpa [h3, opcodeFormat] using h
    exact ⟨_, by rw [decode, if_neg h2, if_pos h3, decodeB, if_pos ((maskB_eq_zero w).1 hz)]⟩
  cases hk : opcodesN.lookup (opOf w) with
  | none => simp [(opcodeFormat_none_iff _ h2 h3).1 hk] at h
  | some i =>
    have hf : opcodeFormat (opOf w) = some .n := (lookup_opcodesN_isSome _ h2 h3).1 (by simp [hk])
    have hz : w &&& Format.n.reservedMask = 0#32 := by simpa [hf] using h
    exact ⟨i, by simp [decode, h2, h3, hk, decodeN, (maskN_eq_zero w).1 hz]⟩

/-- The encoder rebuilds the word from the opcode, the operand and the zero bits the decoder checked
(30_encoding R91). -/
theorem encode_of_decode {w : Word} {i : Instr} (h : decode w = .ok i) : encode i = w := by
  have hw : w.toNat < 4294967296 := w.isLt
  have hop := opOf_toNat w
  apply BitVec.eq_of_toNat_eq
  by_cases h2 : opOf w = 0x02#8
  · simp only [h2, BitVec.toNat_ofNat] at hop
    rw [decode, if_pos h2, decodeW] at h
    split at h
    · rename_i hz
      obtain rfl := Except.ok.inj h
      rw [extract_eq_zero_iff_toNat] at hz
      rw [encode_ckAddw_toNat, toNat_extract]
      omega
    · cases h
  by_cases h3 : opOf w = 0x03#8
  · simp only [h3, BitVec.toNat_ofNat] at hop
    rw [decode, if_neg h2, if_pos h3, decodeB] at h
    split at h
    · rename_i hz
      obtain rfl := Except.ok.inj h
      simp only [extract_eq_zero_iff_toNat] at hz
      rw [encode_ckAddb_toNat, toNat_extract]
      omega
    · cases h
  rw [decode, if_neg h2, if_neg h3] at h
  cases hk : opcodesN.lookup (opOf w) with
  | none => simp [hk] at h
  | some j =>
    simp only [hk, decodeN] at h
    split at h
    · rename_i hz
      obtain rfl := Except.ok.inj h
      rw [extract_eq_zero_iff_toNat] at hz
      rw [encode_toNat_of_lookup _ _ hk]
      omega
    · cases h

/-- Settles O3: the decoder and the masks check the same bits, and the encoder undoes the decoder. -/
theorem decodeAcceptsExactlyLegalWords : Obligations.DecodeAcceptsExactlyLegalWords :=
  fun _ => ⟨⟨fun ⟨_, hd⟩ => Machine.wellFormedWord_of_decode_ok hd, decode_ok_of_wellFormedWord⟩,
    fun _ => encode_of_decode⟩

end Sys2Proof
end

section
/-! PROOF. What a tick and a HOST write do, one case for each effect, and the transition relation of STATUS.STATE
(43_control R196) read off the effects of a step. -/

namespace Sys2Proof.Machine

open Sys2Proof.Claims

/-! ### The command a step completes -/

theorem completing_eq_some {s : State} {i : Instr} (hr : s.rst = false) (hn : s.nextEvent = .block)
    (hb : s.busy = true) (hd : decode s.latch.cmd = .ok i) : s.completing = some i := by
  simp [State.completing, hr, hn, hb, hd]

/-- Only a BLOCK turn completes a command (43_control R192). -/
theorem completing_eq_none {s : State} (hn : s.nextEvent ≠ .block) : s.completing = none := by
  simp [State.completing, hn]

/-! ### A tick -/

theorem tick_of_not_waiting {s : State} (h : s.session ≠ .synSent) : tick s = s := if_neg h

/-- The last tick of the wait. -/
theorem tick_of_last {s : State} (h : s.session = .synSent) (hr : s.remain = 1#32) :
    tick s = enterTerminal .timedOut
      { s with remain := 0#32, history := { s.history with ticks := s.history.ticks + 1 } } := by
  simp [tick, h, hr]

/-- A tick before the last one. -/
theorem tick_of_more {s : State} (h : s.session = .synSent) (hr : s.remain ≠ 1#32) :
    tick s =
      { s with remain := s.remain - 1#32, history := { s.history with ticks := s.history.ticks + 1 } } := by
  have hz : s.remain - 1#32 ≠ 0#32 := by bv_omega
  simp [tick, h, hz]

/-- Everything a pulse on tick_i can do (42_matcher R175). -/
inductive TickEffect (s : State) : State → Prop where
  | ignored : s.session ≠ .synSent → TickEffect s s
  | expired : s.session = .synSent → s.remain = 1#32 →
      TickEffect s (enterTerminal .timedOut
        { s with remain := 0#32, history := { s.history with ticks := s.history.ticks + 1 } })
  | counted : s.session = .synSent → s.remain ≠ 1#32 →
      TickEffect s
        { s with remain := s.remain - 1#32, history := { s.history with ticks := s.history.ticks + 1 } }

theorem tick_effect (s : State) : TickEffect s (tick s) := by
  by_cases hs : s.session = .synSent
  · by_cases hr : s.remain = 1#32
    · exact tick_of_last hs hr ▸ .expired hs hr
    · exact tick_of_more hs hr ▸ .counted hs hr
  · exact (tick_of_not_waiting hs).symm ▸ .ignored hs

/-! ### A HOST write -/

/-- What a HOST write can do, by what it changes: the registers only the HOST writes, the pending bits, the error
record, the latch, or PKT_RAM. -/
inductive HostWriteOutcome (s : State) (addr : Word) (size : AccessSize) (data : Word) : State → Prop where
  | hostRegs (r : BusResp) (u : State) : HostWriteOutcome s addr size data (answer r (withHostRegs s u))
  | status : addr = Reg.status.offset → size = .word →
      HostWriteOutcome s addr size data (answer .written
        { s with doneP := w1c s.doneP data 8, txreqP := w1c s.txreqP data 9, errP := w1c s.errP data 10 })
  | refused (c : Cause) : addr = Reg.cmd.offset → size = .word →
      HostWriteOutcome s addr size data (answer .written (cmdError c data s))
  | latched (i : Instr) : addr = Reg.cmd.offset → size = .word → s.busy = false → decode data = .ok i →
      rangeError i s = false → HostWriteOutcome s addr size data (answer .written (latchCommand data s))
  | window (o : Nat) : addr.toNat = 0x1000 + o → o + size.bytes ≤ 4096 →
      HostWriteOutcome s addr size data (answer .written (writeWindow o (busLanes size.bytes data) s))

/-- A write to a register other than STATUS and CMD changes at most the registers only the HOST writes
(10_state R22, R23). -/
theorem writeReg_eq_withHostRegs {r : Reg} (hs : r ≠ .status) (hc : r ≠ .cmd) (w : Word) (s : State) :
    writeReg r w s = withHostRegs s (writeReg r w s) := by
  cases r with
  | status => exact absurd rfl hs
  | cmd => exact absurd rfl hc
  | _ => rfl

theorem hostWrite_outcome {s t : State} {addr data : Word} {size : AccessSize}
    (h : HostWriteEffect s addr size data t) : HostWriteOutcome s addr size data t := by
  cases h with
  | busError | reserved => exact .hostRegs _ s
  | window o ha ho => exact .window o ha ho
  | register r ha hz =>
    by_cases hs : r = .status
    · subst hs
      exact .status ha hz
    by_cases hc : r = .cmd
    · subst hc
      rw [writeReg_cmd]
      rcases issue_cases data s with ⟨c, he⟩ | ⟨hb, he, i, hd, hi⟩
      · exact he ▸ .refused c ha hz
      · exact he ▸ .latched i ha hz hb hd hi
    · rw [writeReg_eq_withHostRegs hs hc]
      exact .hostRegs _ _

/-! ### The step -/

/-- Everything a step can do when it gives a next state, the effects of a tick and of a HOST write told apart. -/
inductive StepOutcome (s : State) : State → Prop where
  /-- Nothing happens: rst is asserted, BLOCK has nothing to complete, or rst stays deasserted. -/
  | nothing : StepOutcome s (afterTaking s)
  /-- A HOST read is answered, and a POLL may go back on the schedule. -/
  | read (r : BusResp) (d : Nat) (l : List Event) : s.rst = false →
      StepOutcome s { s with bus := r, draws := d, schedule := l }
  | tick (t : State) : s.rst = false → s.nextEvent = .tick → TickEffect (afterTaking s) t → StepOutcome s t
  | complete (i : Instr) (u : State) : s.rst = false → s.nextEvent = .block → s.busy = true →
      decode s.latch.cmd = .ok i → ExecEffect (afterTaking s) i u → StepOutcome s (retire u)
  | write (addr : Word) (size : AccessSize) (data : Word) (t : State) : s.rst = false →
      s.nextEvent = .write addr size data → HostWriteOutcome (afterTaking s) addr size data t → StepOutcome s t
  | reset (level : Bool) : s.nextEvent = .rst level → (level = true ∨ s.rst = true) →
      StepOutcome s { State.reset with rst := level, draws := s.draws, schedule := s.schedule.tail }

theorem step_outcome {s t : State} (h : step s = .next t) : StepOutcome s t := by
  cases step_effect h with
  | nothing => exact .nothing
  | read r d hr => exact .read r d _ hr
  | pollAgain r d l hr => exact .read r d l hr
  | tick hr hn => exact .tick _ hr hn (tick_effect _)
  | complete i u hr hn hb hd hx => exact .complete i u hr hn hb hd hx
  | write addr size data t hr hn hw => exact .write addr size data t hr hn (hostWrite_outcome hw)
  | reset level hn hl => exact .reset level hn hl

/-! ### The transition relation -/

/-- Settles O40: of the effects a step can have, those that move STATE are the rows of the relation. -/
theorem sessionMovesOnlyByTheTransitionRelation : Obligations.SessionMovesOnlyByTheTransitionRelation := by
  intro s t h hne
  cases step_outcome h with
  | nothing | read => exact absurd rfl hne
  | write addr size data t _ _ hw => cases hw <;> exact absurd rfl hne
  | reset level hn hl =>
    rw [completing_eq_none (by simp [hn])]
    exact .reset level hn hl
  | tick t _ hn ht =>
    rw [completing_eq_none (by simp [hn])]
    cases ht with
    | ignored | counted => exact absurd rfl hne
    | expired hs hrem => exact .expire hs hn hrem
  | complete i u hr hn hb hd hx =>
    rw [completing_eq_some hr hn hb hd]
    cases hx with
    | start hs => exact .start hs
    | txOkWait hs ht => exact .txOkWait hs ht
    | txOkExpired hs ht => exact .txOkExpired hs ht
    | txOkEstablish hs => exact .txOkEstablish hs
    | txFail hs => exact .txFail hs
    | rxAccepted seq hs hv => exact .accept seq hs hv
    | srst hs => exact .srst hs
    | _ => exact absurd rfl hne

end Sys2Proof.Machine
end

section
/-! PROOF. What changes the flags of STATUS (10_state R26) and the read-only registers (10_state R28, R29, R39,
R41 to R44): every effect of a step, checked against the tables. -/

namespace Sys2Proof.Machine

open Sys2Proof.Claims

/-- A pending bit that a W1C write changes is cleared by a 1 written to it (10_state R23). -/
theorem w1c_of_ne {old : Bool} {w : Word} {k : Nat} (h : w1c old w k ≠ old) :
    w1c old w k = false ∧ w.getLsbD k = true := by
  cases old <;> simp_all [w1c]

theorem terminal_of_ready {x : Session} (h : x = .synReady ∨ x = .ackReady) : x.terminal = false := by
  rcases h with rfl | rfl <;> rfl

/-- A command error is recorded only with ERR_P = 0 (60_exceptions R202). -/
theorem errP_eq_false_of_recorded {c : Cause} {w : Word} {s : State}
    (h : (cmdError c w s).errInfo ≠ s.errInfo ∨ (cmdError c w s).errCmd ≠ s.errCmd) : s.errP = false := by
  cases hp : s.errP with
  | false => rfl
  | true => simp [hp] at h

/-- Settles O44: each effect of a step changes only flags whose entry in the table names it. -/
theorem flagsChangeOnlyAsTabled : Obligations.FlagsChangeOnlyAsTabled := by
  intro s t h
  cases step_outcome h with
  | nothing | read => simp
  | reset level hn hl =>
    have hr : resets s := ⟨level, hn, hl⟩
    simp [hr]
  | tick t hr hn ht =>
    cases ht with
    | ignored | counted => simp
    | expired hs =>
      have hs : s.session = .synSent := hs
      simp [hs, Session.terminal]
  | write addr size data t hr hn hw =>
    cases hw with
    | hostRegs | window => simp [withHostRegs]
    | status ha hz =>
      have cleared {old : Bool} {k : Nat} (hne : w1c old data k ≠ old) :
          w1c old data k = false ∧ ∃ w, writesReg s .status w ∧ w.getLsbD k = true :=
        ⟨(w1c_of_ne hne).1, data, ⟨hr, by rw [hn, ha, hz]⟩, (w1c_of_ne hne).2⟩
      refine ⟨by simp, by simp, by simp, by simp, by simp, ?_, ?_, ?_⟩
      all_goals exact fun hne => .inr (.inr (cleared hne))
    | refused c ha hz | latched i ha hz =>
      have hw : ∃ w, writesReg s .cmd w := ⟨data, hr, by rw [hn, ha, hz]⟩
      simp [hw]
  | complete i u hr hn hb hd hx =>
    have hc := completing_eq_some hr hn hb hd
    cases hx with
    | ckAddw | ckAddb =>
      have ha : completesAdd s := by simp [completesAdd, hc]
      have sticky : ∀ a b : Bool, (a || b) ≠ a → (a || b) = true := by decide
      refine ⟨by simp [hc], by simp, by simp, fun hne => ?_, by simp, by simp, by simp, by simp⟩
      exact .inr (.inl ⟨sticky _ _ hne, ha⟩)
    | txOkExpired hs =>
      have ht := terminal_of_ready (.inl hs)
      simp_all [completesOneOf, Session.terminal]
    | txOkEstablish hs =>
      have ht := terminal_of_ready (.inr hs)
      simp_all [completesOneOf, Session.terminal]
    | txFail hs =>
      have ht := terminal_of_ready hs
      simp_all [completesOneOf, Session.terminal]
    | matchTest v => cases v <;> simp [completesOneOf, hc]
    | _ => simp [completesOneOf, hc]

/-- Settles O45: each effect of a step changes only registers whose rule names it. -/
theorem readOnlyRegistersChangeOnlyAsNamed : Obligations.ReadOnlyRegistersChangeOnlyAsNamed := by
  intro s t h
  cases step_outcome h with
  | nothing | read => simp
  | reset level hn hl =>
    have hr : resets s := ⟨level, hn, hl⟩
    simp [hr]
  | tick t hr hn ht =>
    cases ht with
    | ignored => simp
    | expired hs | counted hs =>
      have hw : ticksInWait s := ⟨hr, hn, hs⟩
      simp [hw]
  | write addr size data t hr hn hw =>
    cases hw with
    | hostRegs | window => simp [withHostRegs]
    | status => simp
    | latched => simp
    | refused c ha hz =>
      have hw : ∃ w, writesReg s .cmd w := ⟨data, hr, by rw [hn, ha, hz]⟩
      refine ⟨by simp, by simp, by simp, by simp, by simp, fun hne => .inr ⟨?_, rfl, .inl hw⟩⟩
      exact errP_eq_false_of_recorded (s := afterTaking s) hne
  | complete i u hr hn hb hd hx =>
    have hc := completing_eq_some hr hn hb hd
    cases hx with
    | startErr | txOkErr | txFailErr | srstErr =>
      have hw : completesOneOf s [.start, .txOk, .txFail, .srst] := by simp [completesOneOf, hc]
      refine ⟨by simp, by simp, by simp, by simp, by simp, fun hne => .inr ⟨?_, rfl, .inr hw⟩⟩
      exact errP_eq_false_of_recorded (s := afterTaking s) hne
    | _ => simp [completesOneOf, completesAdd, hc]

end Sys2Proof.Machine
end

section
/-! PROOF. The invariants of the reachable states (10_state R49): they hold after reset, and every step keeps each of
their four parts: the session with the observer's record, PKT_RAM, the latch, and what rst asserts. -/

namespace Sys2Proof.Machine

open Sys2Proof.Claims

/-! ### Reset -/

/-- The states a reset puts in place meet the invariants (70_reset R240). -/
theorem inv_of_reset (level : Bool) (n : Nat) (l : List Event) :
    State.Inv { State.reset with rst := level, draws := n, schedule := l } where
  channel := rfl
  pending := rfl
  acceptedOne := by rintro (h | h) <;> cases h
  acceptedNone _ := rfl
  acceptedAtMostOne := Nat.zero_le 1
  budget := Nat.le_refl 0
  waiting h := nomatch h
  ticksBound := Nat.le_refl 0
  noBudget _ := rfl
  noTicks _ := rfl
  edges := rfl
  ram := rfl
  latched h := nomatch h
  inReset _ := rfl

/-- Settles O57: the reset state is the one a reset puts in place with rst low. -/
theorem resetMeetsTheInvariants : Obligations.ResetMeetsTheInvariants := inv_of_reset false 0 []

/-! ### The session -/

/-- The invariants of `State.Inv` that speak of the session and the observer's record (10_state R49 a to e). -/
structure State.SessionInv (s : State) : Prop where
  channel : s.chanOwn = s.session.ownsChannel
  pending : s.txPend = s.session.offersPacket
  acceptedOne : s.session = .ackReady ∨ s.session = .established → s.history.accepted = [s.peerSeq]
  acceptedNone : s.session = .synReady ∨ s.session = .synSent ∨ s.session = .timedOut → s.history.accepted = []
  acceptedAtMostOne : s.history.accepted.length ≤ 1
  budget : s.remain.toNat ≤ s.history.budget.toNat
  waiting : s.session = .synSent →
    1 ≤ s.remain.toNat ∧ s.history.ticks + s.remain.toNat = s.history.budget.toNat
  ticksBound : s.history.ticks ≤ s.history.budget.toNat
  noBudget : s.session = .init ∨ s.session = .synReady → s.remain = 0#32
  noTicks : s.session = .synReady → s.history.ticks = 0
  edges : s.history.chanRises = s.history.chanFalls + s.chanOwn.toNat

theorem State.Inv.toSession {s : State} (h : s.Inv) : s.SessionInv :=
  ⟨h.channel, h.pending, h.acceptedOne, h.acceptedNone, h.acceptedAtMostOne, h.budget, h.waiting, h.ticksBound,
    h.noBudget, h.noTicks, h.edges⟩

/-- `State.Inv` is its session part with the three others. -/
theorem State.SessionInv.toInv {s : State} (h : s.SessionInv) (ram : Memory.wf s.ram = true)
    (latched : s.busy = true → ∃ i, decode s.latch.cmd = .ok i ∧ s.latch.inRange i = true)
    (inReset : s.rst = true → s.isReset) : s.Inv :=
  ⟨h.channel, h.pending, h.acceptedOne, h.acceptedNone, h.acceptedAtMostOne, h.budget, h.waiting, h.ticksBound,
    h.noBudget, h.noTicks, h.edges, ram, latched, inReset⟩

/-- The session part speaks of six fields. -/
theorem State.SessionInv.congr {s t : State} (h : s.SessionInv) (hs : t.session = s.session)
    (hc : t.chanOwn = s.chanOwn) (htx : t.txPend = s.txPend) (hp : t.peerSeq = s.peerSeq)
    (hr : t.remain = s.remain) (hh : t.history = s.history) : t.SessionInv where
  channel := by rw [hc, hs]; exact h.channel
  pending := by rw [htx, hs]; exact h.pending
  acceptedOne := by rw [hs, hh, hp]; exact h.acceptedOne
  acceptedNone := by rw [hs, hh]; exact h.acceptedNone
  acceptedAtMostOne := by rw [hh]; exact h.acceptedAtMostOne
  budget := by rw [hr, hh]; exact h.budget
  waiting := by rw [hs, hr, hh]; exact h.waiting
  ticksBound := by rw [hh]; exact h.ticksBound
  noBudget := by rw [hs, hr]; exact h.noBudget
  noTicks := by rw [hs, hh]; exact h.noTicks
  edges := by rw [hh, hc]; exact h.edges

/-- The one way into a terminal state gives the channel back, one falling edge (43_control R197). -/
theorem sessionInv_enterTerminal {st : Session} {s : State} (hst : st.terminal = true) (htx : s.txPend = false)
    (acceptedOne : st = .established → s.history.accepted = [s.peerSeq])
    (acceptedNone : st = .timedOut → s.history.accepted = [])
    (atMostOne : s.history.accepted.length ≤ 1) (budget : s.remain.toNat ≤ s.history.budget.toNat)
    (ticks : s.history.ticks ≤ s.history.budget.toNat)
    (edges : s.history.chanRises = s.history.chanFalls + s.chanOwn.toNat) :
    (enterTerminal st s).SessionInv := by
  have hrun : st.ownsChannel = false ∧ st.offersPacket = false ∧ st ≠ .init ∧ st ≠ .synReady ∧ st ≠ .synSent ∧
      st ≠ .ackReady := by
    cases st <;> simp_all [Session.terminal, Session.ownsChannel, Session.offersPacket]
  obtain ⟨hc, ho, hi, hr, hs, ha⟩ := hrun
  constructor <;> simp_all

theorem sessionInv_tick {s t : State} (h : s.SessionInv) (ht : TickEffect s t) : t.SessionInv := by
  cases ht with
  | ignored => exact h
  | expired hs hr =>
    obtain ⟨_, hsum⟩ := h.waiting hs
    rw [hr] at hsum
    have hn : s.history.accepted = [] := h.acceptedNone (by simp [hs])
    refine sessionInv_enterTerminal rfl ?_ (by simp) (by simp [hn]) h.acceptedAtMostOne (by simp) ?_ h.edges
    · rw [h.pending, hs]; rfl
    · simpa using hsum.le
  | counted hs hr =>
    have hw := h.waiting hs
    have hb := h.ticksBound
    have hd : (s.remain - 1#32).toNat = s.remain.toNat - 1 := by bv_omega
    have hr : s.remain.toNat ≠ 1 := fun e => hr (BitVec.eq_of_toNat_eq e)
    exact { h with
      budget := by simp only [hd]; have := h.budget; omega
      waiting := fun _ => by simp only [hd]; omega
      ticksBound := by simp only; omega
      noBudget := by simp [hs]
      noTicks := by simp [hs] }

theorem ownsChannel_of_idleOrTerminal {x : Session} (h : x.idleOrTerminal = true) : x.ownsChannel = false := by
  cases x <;> simp_all [Session.idleOrTerminal, Session.ownsChannel]

theorem sessionInv_exec {i : Instr} {s t : State} (h : s.SessionInv) (hx : ExecEffect s i t) : t.SessionInv := by
  cases hx with
  | start hs =>
    have hc : s.chanOwn = false := by rw [h.channel, hs]; rfl
    have he := h.edges
    have hr : s.remain = 0#32 := h.noBudget (.inl hs)
    constructor <;> simp [hs, hc, hr, openSession, Session.ownsChannel, Session.offersPacket]
    case edges => simpa [hc] using he
  | txOkWait hs ht =>
    have hn : s.history.accepted = [] := h.acceptedNone (.inl hs)
    have hc := h.channel
    have hk : s.history.ticks = 0 := h.noTicks hs
    have hpos : s.latch.cfg.timeout.toNat ≠ 0 := fun e => ht (BitVec.eq_of_toNat_eq e)
    have he := h.edges
    constructor <;> simp_all [Session.ownsChannel, Session.offersPacket]
    case waiting => omega
  | txOkExpired hs ht =>
    have hn : s.history.accepted = [] := h.acceptedNone (.inl hs)
    have hk : s.history.ticks = 0 := h.noTicks hs
    exact sessionInv_enterTerminal rfl rfl (by simp) (by simp [hn]) h.acceptedAtMostOne (by simp) (by simp [hk])
      h.edges
  | txOkEstablish hs =>
    exact sessionInv_enterTerminal rfl rfl (by simpa using h.acceptedOne (.inl hs)) (by simp) h.acceptedAtMostOne
      h.budget h.ticksBound h.edges
  | txFail hs =>
    exact sessionInv_enterTerminal rfl rfl (by simp) (by simp) h.acceptedAtMostOne h.budget h.ticksBound h.edges
  | rxAccepted seq hs hv =>
    have hn : s.history.accepted = [] := h.acceptedNone (.inr (.inl hs))
    have hc := h.channel
    have hb := h.budget
    have hk := h.ticksBound
    have he := h.edges
    constructor <;> simp_all [Session.ownsChannel, Session.offersPacket]
  | srst hs =>
    have hc : s.chanOwn = false := by rw [h.channel, ownsChannel_of_idleOrTerminal hs]
    have hk := h.ticksBound
    have he := h.edges
    have ha := h.acceptedAtMostOne
    constructor <;> simp_all [Session.ownsChannel, Session.offersPacket]
  | _ => exact h.congr rfl rfl rfl rfl rfl rfl

theorem sessionInv_step {s t : State} (h : s.SessionInv) (hx : StepOutcome s t) : t.SessionInv := by
  have taken : (afterTaking s).SessionInv := h.congr rfl rfl rfl rfl rfl rfl
  cases hx with
  | nothing => exact taken
  | read => exact h.congr rfl rfl rfl rfl rfl rfl
  | tick _ _ _ ht => exact sessionInv_tick taken ht
  | complete i u _ _ _ _ hx => exact (sessionInv_exec taken hx).congr rfl rfl rfl rfl rfl rfl
  | write _ _ _ _ _ _ hw => cases hw <;> exact h.congr rfl rfl rfl rfl rfl rfl
  | reset level => exact (inv_of_reset level _ _).toSession

/-! ### PKT_RAM, the latch and rst -/

@[simp] theorem ipHeader_length (cfg : Cfg) (c : Half) : (ipHeader cfg c).length = 20 := rfl

@[simp] theorem tcpHeader_length (k : PacketKind) (cfg : Cfg) (peerSeq : Word) (c : Half) :
    (tcpHeader k cfg peerSeq c).length = 20 := rfl

@[simp] theorem txPacket_length (k : PacketKind) (cfg : Cfg) (peerSeq : Word) :
    (txPacket k cfg peerSeq).length = 40 := by simp [txPacket]

theorem wf_putAll_txPacket {m : Memory} (h : Memory.wf m = true) (k : PacketKind) (cfg : Cfg) (peerSeq : Word) :
    Memory.wf (Memory.putAll m Config.txBase (txPacket k cfg peerSeq)) = true :=
  wf_putAll h (by simp [Config.txBase])

theorem wf_exec {i : Instr} {s t : State} (h : Memory.wf s.ram = true) (hx : ExecEffect s i t) :
    Memory.wf t.ram = true := by
  cases hx with
  | start =>
    rw [offerPacket_ram, build_ram]
    exact wf_putAll_txPacket h _ _ _
  | rxAccepted =>
    rw [acceptSynAck_ram]
    exact wf_putAll_txPacket h _ _ _
  | _ => exact h

theorem wf_step {s t : State} (h : Memory.wf s.ram = true) (hx : StepOutcome s t) : Memory.wf t.ram = true := by
  cases hx with
  | nothing | read => exact h
  | tick _ _ _ ht => cases ht <;> exact h
  | complete i u _ _ _ _ hx =>
    rw [retire_ram]
    exact wf_exec (s := afterTaking s) h hx
  | reset => rfl
  | write addr size data t _ _ hw =>
    cases hw with
    | window o _ ho => exact wf_putAll h (by rwa [busLanes_length])
    | _ => exact h

/-- The latch of a pending command stays until the command completes, and a new one has passed issue's checks
(43_control R191). -/
theorem latched_step {s t : State}
    (h : s.busy = true → ∃ i, decode s.latch.cmd = .ok i ∧ s.latch.inRange i = true) (hx : StepOutcome s t) :
    t.busy = true → ∃ i, decode t.latch.cmd = .ok i ∧ t.latch.inRange i = true := by
  cases hx with
  | nothing | read => exact h
  | tick _ _ _ ht => cases ht <;> exact h
  | complete => simp
  | reset => exact fun hb => nomatch hb
  | write addr size data t _ _ hw =>
    cases hw with
    | latched i _ _ _ hd hr => exact fun _ => ⟨i, hd, latchCommand_inRange hr⟩
    | _ => exact h

/-- Under rst nothing but the pin moves the state (70_reset R240). -/
theorem inReset_step {s t : State} (h : s.rst = true → s.isReset) (hx : StepOutcome s t) :
    t.rst = true → t.isReset := by
  cases hx with
  | nothing => exact fun hr => congrArg afterTaking (h hr)
  | reset => exact fun _ => rfl
  | read _ _ _ hr => simp [hr]
  | tick _ hr _ ht => cases ht <;> simp [hr]
  | complete i u hr _ _ _ hx => cases hx <;> simp [hr]
  | write _ _ _ _ hr _ hw => cases hw <;> simp [hr, withHostRegs]

/-- Settles O58: each part of the invariants is kept by every effect of a step. -/
theorem stepKeepsTheInvariants : Obligations.StepKeepsTheInvariants := fun _ _ h hx =>
  (sessionInv_step h.toSession (step_outcome hx)).toInv (wf_step h.ram (step_outcome hx))
    (latched_step h.latched (step_outcome hx)) (inReset_step h.inReset (step_outcome hx))

end Sys2Proof.Machine
end

section
/-! PROOF. Where a step stops (70_reset R241, R253): the footprint hazard of a completion, byte by byte, and the
reads of bytes not written since reset. -/

namespace Sys2Proof.Machine

open Sys2Proof.Claims

/-! ### The footprint -/

/-- The offset lies in the range (offset, bytes). -/
def inRange (p : Nat × Nat) (k : Nat) : Prop := p.1 ≤ k ∧ k < p.1 + p.2

theorem rangesMeet_iff {p q : Nat × Nat} : rangesMeet p q = true ↔ ∃ k, inRange p k ∧ inRange q k := by
  simp only [rangesMeet, inRange, decide_eq_true_eq]
  constructor
  · exact fun h => ⟨max p.1 q.1, by omega, by omega⟩
  · rintro ⟨k, hp, hq⟩
    omega

theorem accepts_iff {s : State} :
    s.accepts = true ↔ s.session = .synSent ∧ ∃ seq, s.latchedMatch = .ok (some seq) := by
  simp only [State.accepts, Bool.and_eq_true, decide_eq_true_eq]
  rcases s.latchedMatch with f | _ | seq <;> simp

/-- The ranges of a command's footprint are those 20_memory R77 lists. -/
theorem footprintHolds_iff {s : State} {i : Instr} {k : Nat} :
    footprintHolds s i k ↔ ∃ p ∈ footprint i s, inRange p k := by
  cases i with
  | rxPush =>
    by_cases ha : s.accepts = true
    · obtain ⟨hs, hv⟩ := accepts_iff.1 ha
      simp [footprintHolds, footprint, inRange, ha, hs, hv, txRange, Config.txBase, Config.txLen, Config.rxBase]
    · have hv : ¬ (s.session = .synSent ∧ ∃ seq, s.latchedMatch = .ok (some seq)) := fun h => ha (accepts_iff.2 h)
      simp [footprintHolds, footprint, inRange, ha, hv, Config.rxBase]
  | ckBuf | start | matchTest =>
    simp [footprintHolds, footprint, inRange, txRange, Config.txBase, Config.txLen, Config.rxBase]
  | nop | ckClr | ckAddw | ckAddb | ckFin | txOk | txFail | rxErr | srst => simp [footprintHolds, footprint]

/-- The hazard of 70_reset R253: a recorded HOST write shares a byte with the footprint. -/
theorem footprintHazard_iff {i : Instr} {s : State} :
    footprintHazard i s = true ↔ ∃ q ∈ s.hostWrites, ∃ k, inRange q k ∧ footprintHolds s i k := by
  simp only [footprintHazard, List.any_eq_true, rangesMeet_iff, footprintHolds_iff]
  constructor
  · rintro ⟨p, hp, q, hq, k, hpk, hqk⟩
    exact ⟨q, hq, k, hqk, p, hp, hpk⟩
  · rintro ⟨q, hq, k, hqk, p, hp, hpk⟩
    exact ⟨p, hp, q, hq, k, hpk, hqk⟩

/-! ### A completion that stops -/

theorem complete_refused {s : State} {r : Refusal} (h : complete s = .refused r) :
    s.busy = true ∧ ∃ e, decode s.latch.cmd = .error e := by
  unfold complete at h
  split at h
  · split at h
    · exact ⟨‹_›, _, ‹_›⟩
    · split at h
      · cases h
      · split at h
        · cases h
        · cases h
        · exact absurd ‹_› (exec_not_refused _ _ _)
  · cases h

theorem complete_fault {s : State} {f : Fault} (h : complete s = .fault f) :
    s.busy = true ∧ ∃ i, decode s.latch.cmd = .ok i ∧
      ((footprintHazard i s = true ∧ f = .footprintWritten) ∨ exec i s = .fault f) := by
  unfold complete at h
  split at h
  · split at h
    · cases h
    · split at h
      · cases h
        exact ⟨‹_›, _, ‹_›, .inl ⟨‹_›, rfl⟩⟩
      · split at h
        · cases h
        · cases h
          exact ⟨‹_›, _, ‹_›, .inr ‹_›⟩
        · cases h
  · cases h

/-- A command whose latched operands passed issue's checks reads inside PKT_RAM (43_control R191). -/
theorem commandReads_lt {s : State} {i : Instr} {u : Nat} (hi : s.latch.inRange i = true) (h : commandReads s i u) :
    u < 4096 := by
  rcases h with ⟨rfl, h1, h2⟩ | ⟨rfl | ⟨rfl, _⟩, hm⟩
  · simp only [Latch.inRange, Config.pktRamBytes, decide_eq_true_eq] at hi
    omega
  all_goals
    obtain ⟨_, hu⟩ := matcherReads_range hm
    simp only [Latch.inRange, Config.rxCap, decide_eq_true_eq] at hi
    omega

/-! ### A step that stops -/

theorem pollOnce_fault {a m v : Word} {s : State} {f : Fault} (h : pollOnce a m v s = .fault f) :
    hostRead a .word s = .fault f := by
  unfold pollOnce at h
  split at h
  · split at h <;> cases h
  · cases h
    assumption
  · cases h

theorem pollOnce_not_refused (a m v : Word) (s : State) (r : Refusal) : pollOnce a m v s ≠ .refused r := by
  unfold pollOnce
  split
  · split <;> simp
  · simp
  · exact absurd ‹_› (hostRead_not_refused _ _ _ _)

/-- Under rst every step goes on. -/
theorem awake_of_stop {s : State} (h : ∀ t, step s ≠ .next t) : s.rst = false := by
  cases hr : s.rst with
  | false => rfl
  | true =>
    by_cases he : ∃ level, s.nextEvent = .rst level
    · obtain ⟨level, he⟩ := he
      exact absurd (step_rst he) (h _)
    · exact absurd (step_in_reset hr fun level hl => he ⟨level, hl⟩) (h _)

/-- Only BLOCK refuses. -/
theorem runEventAwake_refused {e : Event} {s : State} {r : Refusal} (h : runEventAwake e s = .refused r) :
    e = .block ∧ complete s = .refused r := by
  cases e with
  | block => exact ⟨rfl, h⟩
  | read a size => exact absurd h (hostRead_not_refused _ _ _ _)
  | poll a m v => exact absurd h (pollOnce_not_refused _ _ _ _ _)
  | write | tick | rst => cases h

/-- Only BLOCK and the reads of HOST fault. -/
theorem runEventAwake_fault {e : Event} {s : State} {f : Fault} (h : runEventAwake e s = .fault f) :
    (e = .block ∧ complete s = .fault f) ∨
      ∃ a size, (e = .read a size ∨ (size = .word ∧ ∃ m v, e = .poll a m v)) ∧ hostRead a size s = .fault f := by
  cases e with
  | block => exact .inl ⟨rfl, h⟩
  | read a size => exact .inr ⟨a, size, .inl rfl, h⟩
  | poll a m v => exact .inr ⟨a, .word, .inr ⟨rfl, m, v, rfl⟩, pollOnce_fault h⟩
  | write | tick | rst => cases h

theorem step_not_refused {s : State} (hi : s.Inv) (r : Refusal) : step s ≠ .refused r := by
  intro h
  have hr : s.rst = false := awake_of_stop (by simp [h])
  rw [step_awake hr] at h
  obtain ⟨_, hc⟩ := runEventAwake_refused h
  obtain ⟨hb, e, he⟩ := complete_refused hc
  obtain ⟨i, hd, _⟩ := hi.latched hb
  exact nomatch he.symm.trans hd

/-- Settles O60: a pending command of an invariant state decodes, and its operands keep its reads inside PKT_RAM; so
what stops a step is the hazard or an unwritten byte. -/
theorem stepStopsOnlyWhereTheSpecAsks : Obligations.StepStopsOnlyWhereTheSpecAsks := by
  refine fun s hi => ⟨step_not_refused hi, fun f h => ?_⟩
  have hr : s.rst = false := awake_of_stop (by simp [h])
  rw [step_awake hr] at h
  rcases runEventAwake_fault h with ⟨hn, hc⟩ | ⟨a, size, he, hf⟩
  · obtain ⟨hb, i, hd, hx⟩ := complete_fault hc
    have hcomp : s.completing = some i := completing_eq_some hr hn hb hd
    rcases hx with ⟨hh, rfl⟩ | hx
    · obtain ⟨⟨o, n⟩, hq, k, ⟨h1, h2⟩, hk⟩ := footprintHazard_iff.1 hh
      exact .inl ⟨rfl, i, o, n, k, hcomp, hq, h1, h2, hk⟩
    · obtain ⟨u, hu, hw⟩ := exec_fault hx
      have hu : commandReads s i u := hu
      obtain ⟨j, hj, hin⟩ := hi.latched hb
      obtain rfl : i = j := Except.ok.inj (hd.symm.trans hj)
      have hlt := commandReads_lt hin hu
      rcases hw with ⟨hge, _⟩ | ⟨_, hn, rfl⟩
      · omega
      · exact .inr ⟨u, rfl, hlt, hn, .inr ⟨i, hcomp, hu⟩⟩
  · obtain ⟨hwin, u, h1, h2, hlt, hn, rfl⟩ := hostRead_fault hf
    exact .inr ⟨u, rfl, hlt, hn, .inl ⟨a, size, ⟨hr, he⟩, hwin, h1, h2⟩⟩

end Sys2Proof.Machine
end

section
/-! PROOF. Issue, completion and command errors (43_control R191, R192, R195; 60_exceptions R200 to R202; 70_reset
R253): what each does in each of its cases. -/

namespace Sys2Proof.Machine

open Sys2Proof.Claims

/-! ### Command errors -/

theorem cmdError_of_errP_false {s : State} (h : s.errP = false) (c : Cause) (w : Word) :
    cmdError c w s = { s with errInfo := c, errCmd := w, errP := true } := by
  simp [cmdError, h]

theorem cmdError_of_errP {s : State} (h : s.errP = true) (c : Cause) (w : Word) : cmdError c w s = s := by
  cases s
  subst h
  rfl

/-- Settles O6: ERR_P decides whether the record is written. -/
theorem commandErrorCapturesTheFirst : Obligations.CommandErrorCapturesTheFirst :=
  fun c w _ => ⟨fun h => cmdError_of_errP_false h c w, fun h => cmdError_of_errP h c w⟩

/-! ### Issue -/

theorem hostWrite_cmd (w : Word) (s : State) :
    hostWrite Reg.cmd.offset .word w s = answer .written (issue w s) := by
  rw [hostWrite_register, writeReg_cmd]

/-- The range check of issue, as 43_control R191 states it. -/
theorem rangeError_eq_false {i : Instr} {s : State}
    (hb : i = .ckBuf → (s.ckRange.extractLsb' 0 16).toNat + (s.ckRange.extractLsb' 16 16).toNat ≤ 4096)
    (hr : i = .rxPush ∨ i = .matchTest → s.rxLen.toNat ≤ 4032) : rangeError i s = false := by
  cases i with
  | ckBuf => exact decide_eq_false (Nat.not_lt.2 (hb rfl))
  | rxPush => exact decide_eq_false (Nat.not_lt.2 (hr (.inl rfl)))
  | matchTest => exact decide_eq_false (Nat.not_lt.2 (hr (.inr rfl)))
  | _ => rfl

/-- Settles O5: issue goes through BUSY, the decoder and the range check, and latches what passes. -/
theorem issueChecksThenLatches : Obligations.IssueChecksThenLatches := by
  intro s w
  rw [hostWrite_cmd]
  refine ⟨fun hb => ?_, fun hb hd => ?_, fun hb hd => ?_, fun hb hd hl => ?_, fun hb hd hl => ?_,
    fun i hb hd hbuf hrx => ?_⟩
  · rw [issue_of_busy hb]
  · rw [issue_of_decode_error hb hd]; rfl
  · rw [issue_of_decode_error hb hd]; rfl
  · have hr : rangeError .ckBuf s = true := decide_eq_true hl
    rw [issue_of_decode_ok hb hd, if_pos hr]
  · rcases hd with hd | hd
    all_goals
      rw [issue_of_decode_ok hb hd]
      exact congrArg (answer .written) (if_pos (decide_eq_true hl))
  · rw [issue_of_decode_ok hb hd, rangeError_eq_false hbuf hrx]
    rfl

/-! ### HOST accesses of the window -/

/-- The bytes of the window are below 4096 (20_memory R60). -/
theorem inWindow_end {a : Word} {size : AccessSize} (h : inWindow a size) :
    a.toNat - 0x1000 + size.bytes ≤ 4096 := by
  obtain ⟨h1, h2, h3⟩ := h
  cases size <;> simp only [AccessSize.bytes] at h3 ⊢ <;> omega

theorem legal_of_inWindow {a : Word} {size : AccessSize} (h : inWindow a size) :
    accessOk a size = true ∧ inRegisters a = false := by
  obtain ⟨h1, h2, h3⟩ := h
  exact ⟨accessOk_iff.2 ⟨h3, fun hr => absurd hr (by omega), h2⟩, decide_eq_false (show ¬ a.toNat < 0x1000 by omega)⟩

theorem hostWrite_of_inWindow {a : Word} {size : AccessSize} (h : inWindow a size) (d : Word) (s : State) :
    hostWrite a size d s = answer .written (writeWindow (a.toNat - 0x1000) (busLanes size.bytes d) s) := by
  obtain ⟨hok, hreg⟩ := legal_of_inWindow h
  rw [hostWrite, if_pos hok, if_neg (by simp [hreg])]
  rfl

theorem hostRead_of_readWindow_ok {a : Word} {size : AccessSize} (h : inWindow a size) {s : State} {bs : List Byte}
    (hb : readWindow s 0 (a.toNat - 0x1000) size.bytes = .ok bs) :
    hostRead a size s =
      .next (answer (.data (busData bs)) { s with draws := s.draws + if s.busy then size.bytes else 0 }) := by
  obtain ⟨hok, hreg⟩ := legal_of_inWindow h
  have hb : readWindow s 0 (windowOffset a) size.bytes = .ok bs := hb
  simp [hostRead, hok, hreg, hb]

theorem hostRead_of_readWindow_error {a : Word} {size : AccessSize} (h : inWindow a size) {s : State} {f : Fault}
    (hf : readWindow s 0 (a.toNat - 0x1000) size.bytes = .error f) : hostRead a size s = .fault f := by
  obtain ⟨hok, hreg⟩ := legal_of_inWindow h
  have hf : readWindow s 0 (windowOffset a) size.bytes = .error f := hf
  simp [hostRead, hok, hreg, hf]

/-! ### BLOCK's turn -/

/-- A scheduled BLOCK turn out of reset completes the pending command (43_control R192). -/
theorem step_block {s : State} (hr : s.rst = false) (hn : s.nextEvent = .block) :
    step s = complete (afterTaking s) := by
  rw [step_awake hr, hn]; rfl

theorem complete_of_idle {s : State} (hb : s.busy = false) : complete s = .next s := by
  simp [complete, hb]

theorem complete_of_no_hazard {s : State} {i : Instr} (hb : s.busy = true) (hd : decode s.latch.cmd = .ok i)
    (hh : footprintHazard i s = false) : complete s = mapNext retire (exec i s) := by
  simp only [complete, hb, if_true, hd, hh]
  cases exec i s <;> rfl

theorem complete_of_hazard {s : State} {i : Instr} (hb : s.busy = true) (hd : decode s.latch.cmd = .ok i)
    (hh : footprintHazard i s = true) : complete s = .fault .footprintWritten := by
  simp [complete, hb, hd, hh]

/-- Settles O8: the turn is `complete`, with nothing pending and with no hazard. -/
theorem stepCompletesTheLatchedCommand : Obligations.StepCompletesTheLatchedCommand := by
  refine fun s hr hn => ⟨fun i hb hd hh => ?_, fun hb => ?_⟩
  · rw [step_block hr hn]
    exact complete_of_no_hazard (s := afterTaking s) hb hd (by rwa [footprintHazard_afterTaking])
  · rw [step_block hr hn]
    exact complete_of_idle (s := afterTaking s) hb

/-- A word of the opcode table is the encoding of the command read from it (30_encoding R80). -/
theorem decode_of_decodeTableWord {w : Nat} {i : Instr} (h : decodeTableWord 32 w = some i) :
    decode (BitVec.ofNat 32 (w % 2 ^ 32)) = .ok i := by
  rw [decodeTableWord, if_pos (Nat.le_refl 32)] at h
  split at h
  · cases h; assumption
  · cases h

/-- Settles O9: the state with the placed word has BLOCK to move next, and no write recorded. -/
theorem placedWordRunsNext : Obligations.PlacedWordRunsNext := by
  intro s w i h
  have hd := decode_of_decodeTableWord h
  rw [encode_of_decode hd]
  exact (stepCompletesTheLatchedCommand (s.withFetchWord 32 w) rfl rfl).1 i rfl hd (footprintHazard_of_nil i rfl)

/-- Settles O53: a window write is put on the record, the record lasts as long as the command is pending, and a
record that meets the footprint is the hazard. -/
theorem footprintWriteFaultsTheCompletion : Obligations.FootprintWriteFaultsTheCompletion := by
  refine ⟨fun s a size d hr hb hw hn => ?_, fun s t h hb ht => ?_, fun s i o n k hr hn hb hd hq h1 h2 hk => ?_⟩
  · rw [step_write hr hn, hostWrite_of_inWindow hw]
    exact ⟨_, rfl, hb, rfl, by simp [writeWindow, hb, busLanes_length], fun p hp => by simp [writeWindow, hb, hp]⟩
  · cases step_outcome h with
    | nothing | read => exact ⟨rfl, fun _ => id⟩
    | tick _ _ _ hx => cases hx <;> exact ⟨rfl, fun _ => id⟩
    | complete | reset => cases ht
    | write _ _ _ _ _ _ hw =>
      cases hw with
      | latched _ _ _ hf => exact nomatch hb.symm.trans hf
      | window => exact ⟨rfl, fun p hp => by simp [hb, writeWindow, hp]⟩
      | _ => exact ⟨rfl, fun _ => id⟩
  · rw [step_block hr hn]
    refine complete_of_hazard (s := afterTaking s) hb hd ?_
    rw [footprintHazard_afterTaking]
    exact footprintHazard_iff.2 ⟨(o, n), hq, k, ⟨h1, h2⟩, hk⟩

end Sys2Proof.Machine
end

section
/-! PROOF. The commands of the session (41_builder R140 to R144, 42_matcher R172, 43_control R193 to R197): what each
does in each state, and what completions have in common. -/

namespace Sys2Proof.Machine

open Sys2Proof.Claims

/-! ### A command the state does not admit -/

/-- An entry 'err' of the table (43_control R195). -/
theorem exec_of_err {i : Instr} {s : State} (h : admission i s.session = .err) :
    exec i s = .next (cmdError .state s.latch.cmd s) := by
  cases i with
  | start =>
    have hs : s.session ≠ .init := fun hs => by simp [admission, hs] at h
    simp [exec, execStart, hs]
  | txOk => cases hs : s.session <;> simp [exec, execTxOk, admission, hs] at h ⊢
  | txFail =>
    have hs : ¬ (s.session = .synReady ∨ s.session = .ackReady) := fun hs => by simp [admission, hs] at h
    simp [exec, execTxFail, hs]
  | srst => cases hs : s.session <;> simp [exec, execSrst, Session.idleOrTerminal, admission, hs] at h ⊢
  | rxPush => by_cases hs : s.session = .synSent <;> simp [admission, hs] at h
  | nop | ckClr | ckAddw | ckAddb | ckFin | ckBuf | rxErr | matchTest => cases h

/-- RX_PUSH outside SYN_SENT, the entries 'ign' of the table (42_matcher R170). -/
theorem exec_rxPush_of_ignored {s : State} (h : s.session ≠ .synSent) : exec .rxPush s = .next s := by
  simp [exec, execRxPush, h]

theorem eq_rxPush_of_ign {i : Instr} {x : Session} (h : admission i x = .ign) : i = .rxPush ∧ x ≠ .synSent := by
  cases i with
  | rxPush => exact ⟨rfl, fun hx => by simp [admission, hx] at h⟩
  | start | txOk | txFail | srst =>
    simp only [admission] at h
    split at h <;> cases h
  | nop | ckClr | ckAddw | ckAddb | ckFin | ckBuf | rxErr | matchTest => cases h

/-- A completion of a command the state admits leaves the error record alone. -/
theorem exec_record_of_ok {i : Instr} {s t : State} (h : admission i s.session = .ok) (hx : ExecEffect s i t) :
    t.errP = s.errP ∧ t.errInfo = s.errInfo ∧ t.errCmd = s.errCmd := by
  cases hx with
  | startErr hs => simp [admission, hs] at h
  | txOkErr hs hs' | txFailErr hs hs' => simp [admission, hs, hs'] at h
  | srstErr hs => cases hx : s.session <;> simp [admission, Session.idleOrTerminal, hx] at h hs
  | _ => exact ⟨rfl, rfl, rfl⟩

/-- Settles O10: one lemma for each kind of entry. -/
theorem stateAdmitsCommandsAsTabled : Obligations.StateAdmitsCommandsAsTabled := by
  refine fun i s => ⟨exec_of_err, fun h => ?_, fun h t hx => exec_record_of_ok h (exec_effect hx)⟩
  obtain ⟨rfl, hs⟩ := eq_rxPush_of_ign h
  exact exec_rxPush_of_ignored hs

/-- Settles O11: among the effects of a completion only the four recorded errors set ERR_P. -/
theorem erringCompletionHasNoOtherEffect : Obligations.ErringCompletionHasNoOtherEffect := by
  intro i s t h hs ht
  cases exec_effect h with
  | startErr | txOkErr | txFailErr | srstErr => exact ⟨cmdError_of_errP_false hs _ _, by simp⟩
  | _ => exact nomatch hs.symm.trans ht

/-! ### NOP, SRST and RX_ERR -/

/-- Settles O39: SRST accepts the states without a running session. -/
theorem nopIsInertAndSrstEndsTheSession : Obligations.NopIsInertAndSrstEndsTheSession := by
  refine fun s => ⟨rfl, fun hs => ?_, fun hs => exec_of_err (if_pos hs)⟩
  have hi : s.session.idleOrTerminal = true := by rcases hs with h | h | h | h <;> rw [h] <;> rfl
  simp [exec, execSrst, hi]

/-- Settles O33: at the highest count RX_ERR stays, below it it adds 1. -/
theorem rxErrCountsAndSaturates : Obligations.RxErrCountsAndSaturates := by
  intro s
  have hlt := s.rxErrCnt.isLt
  by_cases hc : s.rxErrCnt = 0xFFFFFFFF#32
  · exact ⟨s.rxErrCnt, if_pos hc, by simp [hc]⟩
  · have hne : s.rxErrCnt.toNat ≠ 0xFFFFFFFF := fun h => hc (BitVec.eq_of_toNat_eq h)
    refine ⟨s.rxErrCnt + 1#32, by simp [exec, execRxErr, hc], ?_⟩
    rw [BitVec.toNat_add, BitVec.toNat_ofNat]
    omega

/-! ### START, TX_OK and TX_FAIL -/

/-- A packet built at 0x000-0x027 leaves the bytes from 0x028 on (41_builder R133). -/
theorem byteAt_putAll_txPacket {a : Nat} (ha : 0x28 ≤ a) (m : Memory) (k : PacketKind) (cfg : Cfg) (peerSeq : Word) :
    Memory.byteAt (Memory.putAll m Config.txBase (txPacket k cfg peerSeq)) a = Memory.byteAt m a :=
  byteAt_putAll_outside (.inr (by simpa [Config.txBase] using ha))

/-- No completion writes from 0x028 on (20_memory R77). -/
theorem exec_ram_frame {i : Instr} {s t : State} (hx : ExecEffect s i t) {a : Nat} (ha : 0x28 ≤ a) :
    Memory.byteAt t.ram a = Memory.byteAt s.ram a := by
  cases hx with
  | start =>
    rw [offerPacket_ram, build_ram]
    exact byteAt_putAll_txPacket ha _ _ _ _
  | rxAccepted =>
    rw [acceptSynAck_ram]
    exact byteAt_putAll_txPacket ha _ _ _ _
  | _ => rfl

/-- Settles O54: START in INIT and an accepting RX_PUSH are the two effects that store to PKT_RAM. -/
theorem commandsWriteOnlyTheTxPacket : Obligations.CommandsWriteOnlyTheTxPacket := by
  refine fun i s t h => ⟨fun a ha => exec_ram_frame (exec_effect h) ha, fun hne => ?_⟩
  cases exec_effect h with
  | start hs => exact .inl ⟨rfl, hs⟩
  | rxAccepted seq hs => exact .inr ⟨rfl, hs, rfl⟩
  | _ => exact absurd rfl hne

/-- A packet built and offered to the HOST (41_builder R133, R137, R140; 42_matcher R170). -/
theorem offerPacket_build (st : Session) (k : PacketKind) (cfg : Cfg) (peerSeq : Word) (s : State) :
    offerPacket st (build k cfg peerSeq s) =
      { s with
        txPend := true, txreqP := true, session := st
        ram := Memory.putAll s.ram 0 (txPacket k cfg peerSeq)
        ckAcc := sumOf (ipCovered k cfg peerSeq), accOvf := false
        ckResult := checksum (ipCovered k cfg peerSeq) } := by
  simp only [offerPacket, build, loadEngine, Config.txBase]

/-- Settles O27: the completion is the build between taking the channel and offering the packet. -/
theorem startBuildsTheSyn : Obligations.StartBuildsTheSyn := by
  refine fun s hs => ⟨?_, fun t h a ha => exec_ram_frame (exec_effect h) ha⟩
  rw [exec, execStart, if_pos hs, offerPacket_build]
  simp [setChanOwn, openSession]

/-- Settles O28: the report in each state that waits for one; the terminal entry gives the channel back. -/
theorem txReportsMoveTheSession : Obligations.TxReportsMoveTheSession := by
  refine fun s => ⟨fun hs ht => ?_, fun hs ht => ?_, fun hs => ?_, fun hs => ?_⟩
  · simp [exec, execTxOk, hs, beginWait, ht]
  · simp [exec, execTxOk, hs, beginWait, ht, enterTerminal, setChanOwn]
  · simp [exec, execTxOk, hs, enterTerminal, setChanOwn]
  · simp [exec, execTxFail, hs, enterTerminal, setChanOwn]

/-! ### Completions and ticks -/

theorem txreqP_errP_of_tick {s t : State} (h : TickEffect s t) : t.txreqP = s.txreqP ∧ t.errP = s.errP := by
  cases h <;> exact ⟨rfl, rfl⟩

/-- Settles O43: each effect of a completion leaves two of the three bits. -/
theorem oneStepSetsAtMostOnePendingBit : Obligations.OneStepSetsAtMostOnePendingBit := by
  refine ⟨fun i s t h => ?_, fun s => ?_⟩
  · cases exec_effect h with
    | startErr | txOkErr | txFailErr | srstErr => exact .inl ⟨rfl, rfl⟩
    | start | rxAccepted => exact .inr (.inl ⟨rfl, rfl⟩)
    | _ => exact .inr (.inr ⟨rfl, rfl⟩)
  · exact txreqP_errP_of_tick (tick_effect s)

/-- Settles O37: no effect of the three commands is on the wait. -/
theorem receiveCommandsKeepTheBudget : Obligations.ReceiveCommandsKeepTheBudget := by
  intro i s t hi h
  rcases hi with rfl | rfl | rfl
  all_goals cases exec_effect h <;> exact ⟨rfl, rfl, rfl, rfl, rfl⟩

end Sys2Proof.Machine
end

section
/-! PROOF. Ticks, reset and runs (42_matcher R175 to R178, 43_control R197, 70_reset R240, 10_state R49): what one
tick does, how a wait ends, and the invariants of the reachable states as the HOST reads them. -/

namespace Sys2Proof.Machine

open Sys2Proof.Claims

/-! ### Ticks -/

/-- A scheduled tick out of reset (42_matcher R175). -/
theorem step_tick {s : State} (hr : s.rst = false) (hn : s.nextEvent = .tick) :
    step s = .next (tick (afterTaking s)) := by
  rw [step_awake hr, hn]; rfl

/-- Settles O35: the three effects of a tick. -/
theorem tickCountsDownTheWait : Obligations.TickCountsDownTheWait := by
  intro s hr hn
  rw [step_tick hr hn]
  refine ⟨fun hs => ?_, fun hs h1 => ?_, fun hs h1 => ?_⟩
  · rw [tick_of_not_waiting (s := afterTaking s) hs]
  · rw [tick_of_last (s := afterTaking s) hs (BitVec.eq_of_toNat_eq h1)]
    simp [enterTerminal, setChanOwn]
  · have hne : s.remain ≠ 1#32 := fun h => by simp [h] at h1
    have hd : BitVec.ofNat 32 (s.remain.toNat - 1) = s.remain - 1#32 := by bv_omega
    rw [tick_of_more (s := afterTaking s) hs hne, hd]
    rfl

/-- Settles O36: the tick ends the session, and the RX_PUSH completing after it is outside SYN_SENT. -/
theorem expiringTickBeatsTheArrival : Obligations.ExpiringTickBeatsTheArrival := by
  intro s hr hsch hs hrem hb hc hw
  have hn : s.nextEvent = .tick := by simp [State.nextEvent, hsch, sameCycle]
  have first := step_tick hr hn
  rw [tick_of_last (s := afterTaking s) hs hrem] at first
  generalize hu : enterTerminal .timedOut _ = u at first
  have hun : u.nextEvent = .block := by simp [State.nextEvent, ← hu, hsch, sameCycle]
  have hd : decode u.latch.cmd = .ok .rxPush := by
    rw [← hu]
    exact (congrArg decode hc).trans (decodeOfEncodeIsTheCommand .rxPush)
  have hx : exec .rxPush (afterTaking u) = .next (afterTaking u) := exec_rxPush_of_ignored (by simp [← hu])
  have second := (stepCompletesTheLatchedCommand u (by simpa [← hu] using hr) hun).1 .rxPush
    (by simpa [← hu] using hb) hd (footprintHazard_of_nil _ (by simpa [← hu] using hw))
  rw [hx, mapNext_next] at second
  refine ⟨_, ((runSteps_succ first).trans (runSteps_succ second)).trans rfl, ?_⟩
  simp [← hu]

/-- Settles O38: by induction on the ticks, the last of which can be the one that expires. -/
theorem waitTimesOutAfterRemainTicks : Obligations.WaitTimesOutAfterRemainTicks := by
  intro n
  induction n with
  | zero =>
    intro s _ hs h1 _ _
    exact ⟨s, rfl, rfl, rfl, rfl, rfl, by rw [if_neg (by omega), hs]⟩
  | succ n ih =>
    intro s hr hs h1 hn hsch
    rw [List.replicate_succ] at hsch
    have hne : s.nextEvent = .tick := by simp [State.nextEvent, hsch]
    have first : step s = .next (tick (afterTaking s)) := step_tick hr hne
    rw [runSteps_succ first]
    by_cases hrem : s.remain = 1#32
    · have h0 : n = 0 := by simpa [hrem] using hn
      subst h0
      rw [tick_of_last (s := afterTaking s) hs hrem]
      exact ⟨_, rfl, rfl, rfl, rfl, by simp [hrem], by simp [hrem]⟩
    · have h2 : s.remain.toNat ≠ 1 := fun h => hrem (BitVec.eq_of_toNat_eq h)
      have hd : (s.remain - 1#32).toNat = s.remain.toNat - 1 := by bv_omega
      rw [tick_of_more (s := afterTaking s) hs hrem]
      obtain ⟨t, ht, hram, hp, htx, hleft, hend⟩ := ih
        { afterTaking s with
          remain := s.remain - 1#32, history := { s.history with ticks := s.history.ticks + 1 } }
        hr hs (by simp only [hd]; omega) (by simp only [hd]; omega) (by simp [afterTaking, hsch])
      simp only [hd] at hleft hend
      refine ⟨t, ht, hram, hp, htx, by omega, hend.trans (if_congr (by omega) rfl rfl)⟩

/-! ### Terminal entries -/

/-- Settles O41: each effect that enters a terminal state does it by `enterTerminal`, from a session that owns the
channel. -/
theorem terminalEntryReleasesTheChannelOnce : Obligations.TerminalEntryReleasesTheChannelOnce := by
  intro s t hi h hs ht
  cases step_outcome h with
  | nothing | read => exact nomatch hs.symm.trans ht
  | write _ _ _ _ _ _ hw => cases hw <;> exact nomatch hs.symm.trans ht
  | reset => cases ht
  | tick t _ _ hx =>
    cases hx with
    | ignored | counted => exact nomatch hs.symm.trans ht
    | expired hw =>
      have hc : s.chanOwn = true := hi.channel.trans (congrArg Session.ownsChannel hw)
      simp [hc]
  | complete i u _ _ _ _ hx =>
    cases hx with
    | txOkExpired hw =>
      have hc : s.chanOwn = true := hi.channel.trans (congrArg Session.ownsChannel hw)
      simp [hc]
    | txOkEstablish hw =>
      have hc : s.chanOwn = true := hi.channel.trans (congrArg Session.ownsChannel hw)
      simp [hc]
    | txFail hw =>
      have hc : s.chanOwn = true :=
        hi.channel.trans (hw.elim (congrArg Session.ownsChannel) (congrArg Session.ownsChannel))
      simp [hc]
    | start | txOkWait | rxAccepted | srst => cases ht
    | _ => exact nomatch hs.symm.trans ht

/-! ### Reset -/

theorem driveReset_of_asserted {level : Bool} {s : State} (h : level = true ∨ s.rst = true) :
    driveReset level s = { State.reset with rst := level, draws := s.draws, schedule := s.schedule } :=
  if_pos (by simpa using h)

/-- Settles O56: the reset state register by register, and what each move of the pin puts in place. -/
theorem resetRestoresEveryRegister : Obligations.ResetRestoresEveryRegister := by
  refine ⟨fun r => ?_, rfl, rfl, rfl, rfl, fun s hn => ?_, fun s hr hn => ?_, fun s hr hn => step_in_reset hr hn⟩
  · cases r <;> rfl
  · rw [step_rst hn, driveReset_of_asserted (.inl rfl)]; rfl
  · rw [step_rst hn, driveReset_of_asserted (s := afterTaking s) (.inr hr)]; rfl

/-! ### Reachable states -/

/-- STATUS bit by bit (10_state R26). -/
theorem statusWord_bit (s : State) {j : Nat} (hj : j < 32) :
    s.statusWord.getLsbD j =
      (s.session.code.getLsbD j || (s.busy && decide (j = 3)) || (s.chanOwn && decide (j = 4)) ||
        (s.txPend && decide (j = 5)) || (s.lastMatch && decide (j = 6)) || (s.accOvf && decide (j = 7)) ||
        (s.doneP && decide (j = 8)) || (s.txreqP && decide (j = 9)) || (s.errP && decide (j = 10))) := by
  simp only [State.statusWord, BitVec.getLsbD_or, flagBit_getLsbD _ hj, BitVec.getLsbD_setWidth, decide_eq_true hj,
    Bool.true_and]

/-- STATUS[2:0] is STATE (10_state R26). -/
theorem statusWord_state (s : State) : s.statusWord.toNat % 8 = s.session.code.toNat := by
  have hc : s.statusWord.extractLsb' 0 3 = s.session.code := by
    apply BitVec.eq_of_getLsbD_eq
    intro j hj
    rw [BitVec.getLsbD_extractLsb', decide_eq_true hj, Bool.true_and, Nat.zero_add, statusWord_bit s (by omega)]
    rcases (show j = 0 ∨ j = 1 ∨ j = 2 by omega) with rfl | rfl | rfl <;> simp
  rw [← hc, toNat_extract]
  simp

/-- Settles O59: a run from reset stays within the invariants, which speak of the fields STATUS shows. -/
theorem reachableStatesKeepTheSessionInvariants : Obligations.ReachableStatesKeepTheSessionInvariants := by
  intro moves n t h
  have hi : t.Inv := runSteps_keeps stepKeepsTheInvariants n _ t (inv_of_reset false 0 moves) h
  have hst : (readReg .status t).toNat % 8 = t.session.code.toNat := statusWord_state t
  have hown : (readReg .status t).getLsbD 4 = t.session.ownsChannel := by
    rw [← hi.channel, readReg, statusWord_getLsbD t (by decide) (by decide)]
    simp
  have hoff : (readReg .status t).getLsbD 5 = t.session.offersPacket := by
    rw [← hi.pending, readReg, statusWord_getLsbD t (by decide) (by decide)]
    simp
  have hone : t.session.code.toNat = 3 ∨ t.session.code.toNat = 4 →
      t.session = .ackReady ∨ t.session = .established := by
    cases t.session <;> decide
  simp only [hst, hown, hoff]
  refine ⟨?_, ?_, ?_, fun h => hi.acceptedOne (hone h), hi.budget⟩
  all_goals cases t.session <;> decide

end Sys2Proof.Machine
end

section
/-! PROOF. HOST accesses (20_memory R63 to R68; 10_state R22, R23, R26; 70_reset R241, R253): registers written and
read back, the lanes of a window access, racing reads, and reads of unwritten bytes. -/

namespace Sys2Proof.Machine

open Sys2Proof.Claims

/-! ### Registers -/

/-- Settles O47: a read ends in the answer on the bus. -/
theorem readsHaveNoSideEffects : Obligations.ReadsHaveNoSideEffects := by
  refine ⟨fun s t addr size hr hn h => ?_, fun s r hr hn => ?_⟩
  · rw [step_read hr hn] at h
    obtain ⟨r, d, rfl⟩ := hostRead_effect h
    rfl
  · rw [step_read hr hn, hostRead_register]
    cases r <;> rfl

@[simp] theorem readReg_answer (r : Reg) (b : BusResp) (s : State) : readReg r (answer b s) = readReg r s := by
  cases r <;> rfl

@[simp] theorem readReg_afterTaking (r : Reg) (s : State) : readReg r (afterTaking s) = readReg r s := by
  cases r <;> rfl

/-- A field that starts at bit 0, put back in a word, is the word under the field's mask. -/
theorem setWidth_extract_low {n : Nat} {M : Word} (hM : ∀ i, i < 32 → M.getLsbD i = decide (i < n)) (w : Word) :
    (w.extractLsb' 0 n).setWidth 32 = w &&& M := by
  apply BitVec.eq_of_getLsbD_eq
  intro i hi
  rw [BitVec.getLsbD_setWidth, BitVec.getLsbD_extractLsb', BitVec.getLsbD_and, hM i hi]
  simp [hi, Bool.and_comm]

/-- An RW register holds what is written to its implemented bits (10_state R22, R23). -/
theorem readReg_writeReg_same {r : Reg} {mask : Word} (h : rwMask r = some mask) (w : Word) (s : State) :
    readReg r (writeReg r w s) = w &&& mask := by
  cases r with
  | ctrl | winTtl | ipId | rxLen =>
    cases h
    exact setWidth_extract_low (by decide) w
  | ckRange | clientAddr | serverAddr | ports | seqSyn | seqAck | timeout =>
    cases h
    exact (BitVec.and_allOnes).symm
  | status | cmd | errinfo | errCmd | ckAcc | ckResult | remain | peerSeq | rxErrCnt => cases h

/-- A write to an RW register changes no other (10_state R22). -/
theorem readReg_writeReg_of_ne {r r' : Reg} {mask : Word} (h : rwMask r = some mask) (hne : r' ≠ r) (w : Word)
    (s : State) : readReg r' (writeReg r w s) = readReg r' s := by
  cases r with
  | status | cmd | errinfo | errCmd | ckAcc | ckResult | remain | peerSeq | rxErrCnt => cases h
  | _ => cases r' <;> simp [readReg, writeReg, State.statusWord] at hne ⊢

/-- Settles O48: the write stores the implemented bits in one register, the bus reads them back from it. -/
theorem rwRegistersReadBack : Obligations.RwRegistersReadBack := by
  intro r mask w s hm hr hn
  have hs : r ≠ .status := fun h => by simp [h, rwMask] at hm
  have hc : r ≠ .cmd := fun h => by simp [h, rwMask] at hm
  have same : readReg r (answer .written (writeReg r w (afterTaking s))) = w &&& mask := by
    rw [readReg_answer, readReg_writeReg_same hm]
  refine ⟨_, by rw [step_write hr hn, hostWrite_register], rfl, same, ?_, fun r' hne => ?_, ?_, ?_⟩
  · rw [hostRead_register, same]
    rfl
  · rw [readReg_answer, readReg_writeReg_of_ne hm hne, readReg_afterTaking]
  · rw [writeReg_eq_withHostRegs hs hc]; rfl
  · rw [writeReg_eq_withHostRegs hs hc]; rfl

/-- The pending bits of STATUS under W1C are STATUS with the bits written as 1 cleared (10_state R23). -/
theorem statusWord_w1c (s : State) (w : Word) :
    ({ s with doneP := w1c s.doneP w 8, txreqP := w1c s.txreqP w 9, errP := w1c s.errP w 10 } : State).statusWord =
      s.statusWord &&& ~~~(w &&& 0x700#32) := by
  have mask : ∀ j, j < 32 → (0x700#32).getLsbD j = decide (j = 8 ∨ j = 9 ∨ j = 10) := by decide
  apply BitVec.eq_of_getLsbD_eq
  intro j hj
  rw [BitVec.getLsbD_and, BitVec.getLsbD_not, BitVec.getLsbD_and, mask j hj, statusWord_bit _ hj,
    statusWord_bit _ hj]
  by_cases h8 : j = 8
  · simp [h8, w1c]
  by_cases h9 : j = 9
  · simp [h9, w1c]
  by_cases h10 : j = 10
  · simp [h10, w1c]
  · simp [h8, h9, h10, hj]

/-- Settles O50: STATUS is the one register whose write clears what is written as 1. -/
theorem statusWritesOnlyClearPendingBits : Obligations.StatusWritesOnlyClearPendingBits := by
  intro s w hr hn
  have first := step_write hr hn
  rw [hostWrite_register] at first
  refine ⟨first, fun t h => ?_⟩
  obtain rfl := Host.Outcome.next.inj (first.symm.trans h)
  rw [readReg_answer]
  exact statusWord_w1c (afterTaking s) w

/-! ### The lanes of the bus -/

theorem busLanes_getElem {n i : Nat} (d : Word) (hi : i < (busLanes n d).length) :
    (busLanes n d)[i] = d.extractLsb' (8 * i) 8 := by
  induction n generalizing d i with
  | zero => exact absurd hi (Nat.not_lt_zero i)
  | succ n ih =>
    cases i with
    | zero => rfl
    | succ i =>
      refine (ih (d >>> 8) (by simpa [busLanes] using hi)).trans ?_
      apply BitVec.eq_of_getLsbD_eq
      intro j hj
      simp [hj, show 8 + (8 * i + j) = 8 * (i + 1) + j by omega]

/-- The number on the data lines, for any bytes (20_memory R63). -/
theorem busData_eq_lanes (bs : List Byte) : busData bs = BitVec.ofNat 32 (lanes bs) := by
  induction bs with
  | nil => rfl
  | cons b bs ih =>
    have hb := b.isLt
    apply BitVec.eq_of_toNat_eq
    have low : (busData bs <<< 8).toNat = 2 ^ 8 * (lanes bs % 2 ^ 24) := by
      rw [BitVec.toNat_shiftLeft, ih, BitVec.toNat_ofNat, Nat.shiftLeft_eq]
      omega
    rw [busData, BitVec.toNat_or, low, BitVec.toNat_setWidth, Nat.mod_eq_of_lt (by omega), Nat.or_comm,
      ← Nat.two_pow_add_eq_or_of_lt hb, BitVec.toNat_ofNat, lanes]
    omega

theorem lanes_busLanes (n : Nat) (d : Word) : lanes (busLanes n d) = d.toNat % 2 ^ (8 * n) := by
  induction n generalizing d with
  | zero => simp [busLanes, lanes, Nat.mod_one]
  | succ n ih =>
    rw [busLanes, lanes, ih, toNat_extract, BitVec.toNat_ushiftRight, Nat.shiftRight_eq_div_pow, Nat.mul_succ,
      Nat.add_comm (8 * n), Nat.pow_add, Nat.mod_mul]
    simp

/-! ### Reads of the window -/

/-- The memory a racing read can show is what the pending command's completion would leave (70_reset R253). -/
theorem pendingRam_some {s : State} {m : Memory} (h : pendingRam s = some m) :
    s.busy = true ∧ ∃ i u, decode s.latch.cmd = .ok i ∧ exec i s = .next u ∧ u.ram = m := by
  unfold pendingRam at h
  split at h
  · split at h
    · cases h
    · split at h
      · exact ⟨‹_›, _, _, ‹_›, ‹_›, Option.some.inj h⟩
      · cases h
      · cases h
  · cases h

/-- A racing read gives the old byte or the one the pending command leaves (70_reset R253). -/
theorem racedByte_cases (s : State) (k o : Nat) (old : Byte) :
    racedByte s k o old = old ∨ ∃ m, pendingRam s = some m ∧ Memory.byteAt m o = some (racedByte s k o old) := by
  unfold racedByte
  cases hm : pendingRam s with
  | none => exact .inl rfl
  | some m =>
    cases hb : Memory.byteAt m o with
    | none => exact .inl (by simp [hb])
    | some new =>
      simp only [hb]
      split
      · exact .inl rfl
      · split
        · exact .inr ⟨m, rfl, hb⟩
        · exact .inl rfl

theorem holdsAt_tail {m : Memory} {o : Nat} {b : Byte} {p : List Byte} (h : holdsAt m o (b :: p)) :
    holdsAt m (o + 1) p := fun k c hk => by
  rw [Nat.add_assoc, Nat.add_comm 1 k]
  exact h (k + 1) c hk

/-- A window read of written bytes goes on, each byte the old one or the one the pending command leaves. -/
theorem readWindow_of_holdsAt {s : State} {o : Nat} {old : List Byte} (k : Nat) (ho : o + old.length ≤ 4096)
    (h : holdsAt s.ram o old) :
    ∃ v, readWindow s k o old.length = .ok v ∧ v.length = old.length ∧
      ∀ j b, v[j]? = some b → old[j]? = some b ∨
        ∃ m, pendingRam s = some m ∧ Memory.byteAt m (o + j) = some b := by
  induction old generalizing k o with
  | nil => exact ⟨[], rfl, rfl, by simp⟩
  | cons b old ih =>
    rw [List.length_cons] at ho
    obtain ⟨v, hv, hl, hx⟩ := ih (k + 1) (by omega) (holdsAt_tail h)
    have hb : readByte s.ram o = .ok b := readByte_of_byteAt (by omega) (h 0 b rfl)
    refine ⟨racedByte s k o b :: v, by simp [readWindow, hb, hv], by simp [hl], fun j c hc => ?_⟩
    cases j with
    | zero =>
      obtain rfl : racedByte s k o b = c := Option.some.inj hc
      rcases racedByte_cases s k o b with he | hm
      · exact .inl (congrArg some he.symm)
      · exact .inr hm
    | succ j =>
      rw [show o + (j + 1) = o + 1 + j by omega]
      exact hx j c hc

/-- With no command pending a window read gives the written bytes (20_memory R63). -/
theorem readWindow_of_idle {s : State} {o : Nat} {bs : List Byte} (hb : s.busy = false)
    (ho : o + bs.length ≤ 4096) (h : holdsAt s.ram o bs) : readWindow s 0 o bs.length = .ok bs := by
  obtain ⟨v, hv, hl, hx⟩ := readWindow_of_holdsAt 0 ho h
  have hn : pendingRam s = none := by simp [pendingRam, hb]
  have hv' : v = bs := by
    apply List.ext_getElem hl
    intro j h1 h2
    simpa [hn, List.getElem?_eq_getElem h2, eq_comm] using hx j v[j] (List.getElem?_eq_getElem h1)
  rw [hv, hv']

theorem hostRead_of_idle {s : State} {a : Word} {size : AccessSize} {bs : List Byte} (hw : inWindow a size)
    (hb : s.busy = false) (hl : bs.length = size.bytes) (h : holdsAt s.ram (a.toNat - 0x1000) bs) :
    hostRead a size s = .next { s with bus := .data (BitVec.ofNat 32 (lanes bs)) } := by
  have he := inWindow_end hw
  have hr := readWindow_of_idle hb (hl ▸ he) h
  rw [hl] at hr
  rw [hostRead_of_readWindow_ok hw hr, busData_eq_lanes, hb]
  rfl

/-- Settles O51: a write stores the lanes one by one, and they are read back as one number. -/
theorem windowWordIsLittleEndian : Obligations.WindowWordIsLittleEndian := by
  refine fun s a size hr hw => ⟨fun d hn => ?_, fun bs hb hn hl h => ?_⟩
  · have stored : ∀ i, i < size.bytes →
        Memory.byteAt (Memory.putAll s.ram (a.toNat - 0x1000) (busLanes size.bytes d)) (a.toNat - 0x1000 + i) =
          some (d.extractLsb' (8 * i) 8) := fun i hi => by
      rw [byteAt_putAll_inside i (by rwa [busLanes_length]), busLanes_getElem]
    rw [step_write hr hn, hostWrite_of_inWindow hw]
    refine ⟨_, rfl, rfl, stored, fun o ho => ?_, fun r => ?_, fun hb => ?_⟩
    · exact byteAt_putAll_outside (by rwa [busLanes_length])
    · cases r <;> rfl
    · rw [← lanes_busLanes]
      refine hostRead_of_idle hw hb (busLanes_length _ _) fun i b hi => ?_
      obtain ⟨hlt, he⟩ := List.getElem?_eq_some_iff.1 hi
      rw [busLanes_getElem] at he
      rw [busLanes_length] at hlt
      exact he ▸ stored i hlt
  · rw [step_read hr hn]
    exact hostRead_of_idle (s := afterTaking s) hw hb hl h

/-- Settles O52: the read goes on, byte by byte as the race allows. -/
theorem racingReadIsOldOrNew : Obligations.RacingReadIsOldOrNew := by
  intro s a size old hr hw hn hl h
  obtain ⟨v, hv, hlen, hx⟩ := readWindow_of_holdsAt (s := afterTaking s) 0 (hl ▸ inWindow_end hw) h
  rw [hl] at hv hlen
  refine ⟨v, _, (step_read hr hn).trans (hostRead_of_readWindow_ok hw hv), hlen,
    congrArg BusResp.data (busData_eq_lanes v), fun k b hk => ?_⟩
  rcases hx k b hk with ho | ⟨m, hm, hb⟩
  · exact .inl ho
  · obtain ⟨hbusy, i, u, hd, hx, rfl⟩ := pendingRam_some hm
    exact .inr ⟨i, u, hbusy, hd, hx, hb⟩

/-! ### Reads of unwritten bytes -/

theorem step_of_hostRead_fault {s : State} {a : Word} {size : AccessSize} {f : Fault} (h : hostReads s a size)
    (hf : hostRead a size (afterTaking s) = .fault f) : step s = .fault f := by
  obtain ⟨hr, hn | ⟨rfl, m, v, hn⟩⟩ := h
  · rw [step_read hr hn, hf]
  · rw [step_awake hr, hn]
    simp [runEventAwake, pollOnce, hf]

/-- A completion that reads an unwritten byte stops at one it reads (70_reset R241). -/
theorem exec_of_unwritten {s : State} {i : Instr} {k : Nat} (hi : s.latch.inRange i = true) (hk : commandReads s i k)
    (hn : Memory.byteAt s.ram k = none) :
    ∃ o, commandReads s i o ∧ Memory.byteAt s.ram o = none ∧ exec i s = .fault (.unwrittenByte o) := by
  cases hx : exec i s with
  | next t =>
    obtain ⟨b, hb⟩ := exec_reads hx hk
    exact nomatch hn.symm.trans hb
  | refused r => exact absurd hx (exec_not_refused i s r)
  | fault f =>
    obtain ⟨u, hu, ⟨hge, _⟩ | ⟨_, hun, rfl⟩⟩ := exec_fault hx
    · exact absurd (commandReads_lt hi hu) (by omega)
    · exact ⟨u, hu, hun, rfl⟩

/-- Settles O55: a read that met an unwritten byte cannot have gone on, and its fault names one. -/
theorem unwrittenReadFaults : Obligations.UnwrittenReadFaults := by
  refine ⟨fun s a size k hrd hw h1 h2 hn => ?_, fun s i k hbuf hrx hk hn => ?_, fun _ => rfl⟩
  · obtain ⟨hlo, hhi, hal⟩ := hw
    cases hx : hostRead a size (afterTaking s) with
    | next t =>
      obtain ⟨b, hb⟩ := hostRead_reads hx hlo hhi hal h1 h2
      exact nomatch hn.symm.trans hb
    | refused r => exact absurd hx (hostRead_not_refused _ _ _ r)
    | fault f =>
      obtain ⟨_, u, hu1, hu2, _, hun, rfl⟩ := hostRead_fault hx
      exact ⟨u, hu1, hu2, hun, step_of_hostRead_fault hrd hx⟩
  · refine exec_of_unwritten ?_ hk hn
    cases i with
    | ckBuf => exact decide_eq_true (hbuf rfl)
    | rxPush => exact decide_eq_true (hrx (.inl rfl))
    | matchTest => exact decide_eq_true (hrx (.inr rfl))
    | _ => rfl

end Sys2Proof.Machine
end

section
/-! PROOF. The Checksum Engine (40_checksum): the folds as arithmetic mod 0xFFFF, sums of words that do not wrap, and
the commands that accumulate. -/

namespace Sys2Proof.Machine

open Sys2Proof.Claims

/-! ### Folding -/

theorem foldOnce_toNat (a : Word) : (foldOnce a).toNat = a.toNat / 65536 + a.toNat % 65536 := by
  have hhi : a.toNat / 65536 < 65536 := by have := a.isLt; omega
  have hlo : a.toNat % 65536 < 65536 := Nat.mod_lt _ (by decide)
  rw [foldOnce, BitVec.toNat_add, BitVec.toNat_setWidth, BitVec.toNat_setWidth, highHalf, lowHalf, toNat_extract,
    toNat_extract]
  simp only [Nat.reducePow, Nat.div_one]
  generalize a.toNat / 65536 = hi at hhi ⊢
  generalize a.toNat % 65536 = lo at hlo ⊢
  omega

/-- The second fold adds the carry of the first, and does not carry again (40_checksum R101). -/
theorem fold_toNat (a : Word) :
    (fold a).toNat =
      (a.toNat / 65536 + a.toNat % 65536) % 65536 + (a.toNat / 65536 + a.toNat % 65536) / 65536 := by
  have ht : a.toNat / 65536 + a.toNat % 65536 ≤ 0x1FFFE := by have := a.isLt; omega
  rw [fold, toNat_extract, BitVec.toNat_add, BitVec.toNat_setWidth, toNat_extract, foldOnce_toNat]
  simp only [Nat.reducePow, Nat.div_one]
  generalize a.toNat / 65536 + a.toNat % 65536 = t at ht ⊢
  have hc : t / 65536 ≤ 1 := by omega
  rw [Nat.mod_eq_of_lt (show t / 65536 < 2 by omega), Nat.mod_eq_of_lt (show t / 65536 < 131072 by omega),
    Nat.mod_eq_of_lt (show t + t / 65536 < 131072 by omega)]
  omega

/-- Folding is reduction mod 0xFFFF to 1 .. 0xFFFF, and 0 for 0 alone (40_checksum R108). -/
theorem fold_eq_mod (a : Word) :
    (a.toNat = 0 → (fold a).toNat = 0) ∧ (a.toNat ≠ 0 → (fold a).toNat = (a.toNat - 1) % 65535 + 1) := by
  have ha := a.isLt
  rw [fold_toNat]
  omega

theorem checksum_toNat (s : List Byte) : (checksum s).toNat = 65535 - (fold (sumOf s)).toNat := by
  rw [checksum, BitVec.toNat_not]

theorem checksum_eq_zero_iff (s : List Byte) : checksum s = 0#16 ↔ fold (sumOf s) = 0xFFFF#16 := by
  have hf := (fold (sumOf s)).isLt
  rw [← BitVec.toNat_inj, ← BitVec.toNat_inj, checksum_toNat, BitVec.toNat_ofNat, BitVec.toNat_ofNat]
  omega

theorem checksum_eq_ones_iff (s : List Byte) : checksum s = 0xFFFF#16 ↔ fold (sumOf s) = 0#16 := by
  have hf := (fold (sumOf s)).isLt
  rw [← BitVec.toNat_inj, ← BitVec.toNat_inj, checksum_toNat, BitVec.toNat_ofNat, BitVec.toNat_ofNat]
  omega

theorem fold_eq_zero_iff (a : Word) : fold a = 0#16 ↔ a = 0#32 := by
  have h := fold_eq_mod a
  rw [← BitVec.toNat_inj, ← BitVec.toNat_inj, BitVec.toNat_ofNat, BitVec.toNat_ofNat]
  omega

theorem fold_eq_ones_iff (a : Word) : fold a = 0xFFFF#16 ↔ a ≠ 0#32 ∧ a.toNat % 65535 = 0 := by
  have h := fold_eq_mod a
  rw [Ne, ← BitVec.toNat_inj, ← BitVec.toNat_inj, BitVec.toNat_ofNat, BitVec.toNat_ofNat]
  omega

/-- Settles O13: the two folds in numbers. -/
theorem foldIsTwoFolds : Obligations.FoldIsTwoFolds := by
  intro a
  have ha := a.isLt
  simp only [toNat_extract, fold_toNat]
  omega

/-! ### Sums of words -/

/-- The exact sum of a list of 16-bit words. -/
def wordSum (l : List Half) : Nat := (l.map BitVec.toNat).sum

@[simp] theorem wordSum_nil : wordSum [] = 0 := rfl
@[simp] theorem wordSum_cons (w : Half) (l : List Half) : wordSum (w :: l) = w.toNat + wordSum l := rfl

@[simp] theorem wordSum_append (l l' : List Half) : wordSum (l ++ l') = wordSum l + wordSum l' := by
  simp [wordSum]

theorem wordSum_le (l : List Half) : wordSum l ≤ 65535 * l.length := by
  induction l with
  | nil => simp
  | cons w l ih =>
    have := w.isLt
    simp only [wordSum_cons, List.length_cons]
    omega

theorem wordSum_eq_zero_iff (l : List Half) : wordSum l = 0 ↔ ∀ w ∈ l, w = 0#16 := by
  simp [wordSum, List.sum_eq_zero_iff, ← BitVec.toNat_inj]

/-- Two bytes a word, an odd last byte one of its own (40_checksum R100). -/
theorem wordsOf_length (s : List Byte) : (wordsOf s).length = (s.length + 1) / 2 := by
  induction s using wordsOf.induct with
  | case1 => rfl
  | case2 b => simp [wordsOf]
  | case3 b0 b1 bs ih =>
    simp only [wordsOf, List.length_cons, ih]
    omega

theorem sumOf_toNat_mod (s : List Byte) : (sumOf s).toNat = wordSum (wordsOf s) % 2 ^ 32 := BitVec.toNat_ofNat _ _

theorem wordSum_wordsOf_lt {s : List Byte} (h : s.length ≤ 131074) : wordSum (wordsOf s) < 2 ^ 32 := by
  have hl := wordsOf_length s
  have hs := wordSum_le (wordsOf s)
  omega

/-- The sum does not wrap up to 131074 bytes (40_checksum R102). -/
theorem sumOf_toNat {s : List Byte} (h : s.length ≤ 131074) : (sumOf s).toNat = wordSum (wordsOf s) := by
  rw [sumOf_toNat_mod, Nat.mod_eq_of_lt (wordSum_wordsOf_lt h)]

/-- Settles O14: 65537 words of at most 0xFFFF sum to at most 0xFFFFFFFF. -/
theorem checksumIsComplementedFold : Obligations.ChecksumIsComplementedFold :=
  ⟨fun _ => sumOf_toNat, fun s => ⟨sumOf_toNat_mod s, rfl⟩, by decide⟩

theorem sumOf_eq_zero_iff {s : List Byte} (h : s.length ≤ 131074) : sumOf s = 0#32 ↔ ∀ w ∈ wordsOf s, w = 0#16 := by
  rw [← BitVec.toNat_inj, sumOf_toNat h, BitVec.toNat_ofNat, Nat.zero_mod, wordSum_eq_zero_iff]

/-- Settles O15: the laws of reduction mod 0xFFFF, and what they say of a checksum. -/
theorem foldLaws : Obligations.FoldLaws := by
  intro a
  have ha := a.isLt
  have hm := fold_eq_mod a
  refine ⟨by omega, fold_eq_zero_iff a, fold_eq_ones_iff a, ?_, fun s hs => ⟨?_, ?_⟩⟩
  · simp only [fold_toNat]
    omega
  · rw [checksum_eq_ones_iff, fold_eq_zero_iff, sumOf_eq_zero_iff (by omega)]
  · rw [checksum_eq_zero_iff, fold_eq_ones_iff]

/-! ### A checksum in its own field -/

/-- The words of a sequence that goes on after an even number of bytes (40_checksum R100). -/
theorem wordsOf_append {s : List Byte} (h : s.length % 2 = 0) (t : List Byte) :
    wordsOf (s ++ t) = wordsOf s ++ wordsOf t := by
  induction s using wordsOf.induct with
  | case1 => rfl
  | case2 b => simp at h
  | case3 b0 b1 bs ih =>
    have hl : bs.length % 2 = 0 := by
      simp only [List.length_cons] at h
      omega
    simp only [List.cons_append, wordsOf, ih hl]

@[simp] theorem wordsOf_be16Bytes_append (v : Half) (t : List Byte) :
    wordsOf (be16Bytes v ++ t) = v :: wordsOf t := by
  simp only [be16Bytes, List.cons_append, List.nil_append, wordsOf, be16_join]

/-- The words of a sequence with a 16-bit field at an even offset. -/
theorem wordSum_with_field {pre : List Byte} (h : pre.length % 2 = 0) (v : Half) (post : List Byte) :
    wordSum (wordsOf (pre ++ be16Bytes v ++ post)) =
      v.toNat + wordSum (wordsOf (pre ++ be16Bytes 0#16 ++ post)) := by
  simp only [List.append_assoc, wordsOf_append h, wordsOf_be16Bytes_append, wordSum_append, wordSum_cons]
  simp only [BitVec.toNat_ofNat]
  omega

/-- A checksum inserted into its own zero field at an even offset verifies (40_checksum R109). -/
theorem fold_of_inserted {pre post : List Byte} (h : pre.length % 2 = 0)
    (hl : (pre ++ be16Bytes 0#16 ++ post).length ≤ 65535) :
    fold (sumOf (pre ++ be16Bytes (checksum (pre ++ be16Bytes 0#16 ++ post)) ++ post)) = 0xFFFF#16 := by
  have hc := checksum_toNat (pre ++ be16Bytes 0#16 ++ post)
  have hf := fold_eq_mod (sumOf (pre ++ be16Bytes 0#16 ++ post))
  rw [sumOf_toNat (by omega)] at hf
  have hlen : (pre ++ be16Bytes (checksum (pre ++ be16Bytes 0#16 ++ post)) ++ post).length ≤ 131074 := by
    simp only [List.length_append, be16Bytes, List.length_cons, List.length_nil] at hl ⊢
    omega
  rw [fold_eq_ones_iff, Ne, ← BitVec.toNat_inj, sumOf_toNat hlen, wordSum_with_field h, hc, BitVec.toNat_ofNat]
  omega

/-- Settles O16: the field adds its value to the sum; `[1]` before the field is a counterexample at an odd offset. -/
theorem insertedChecksumVerifies : Obligations.InsertedChecksumVerifies := by
  refine ⟨fun pre post h hl => ?_, [1#8], [], rfl, by decide⟩
  have hv := fold_of_inserted h hl
  exact ⟨(checksum_eq_zero_iff _).2 hv, hv⟩

/-! ### Either byte order -/

/-- A 16-bit value with its bytes exchanged. -/
def swapBytes (v : Half) : Half := v.extractLsb' 0 8 ++ v.extractLsb' 8 8

theorem swapBytes_toNat (v : Half) : (swapBytes v).toNat = v.toNat % 256 * 256 + v.toNat / 256 := by
  have hv := v.isLt
  rw [swapBytes, toNat_append_add, toNat_extract, toNat_extract]
  omega

/-- A little-endian machine reads the words with their bytes exchanged. -/
theorem leWords_eq_map_swapBytes (s : List Byte) : leWords s = (wordsOf s).map swapBytes := by
  have swap : ∀ b0 b1 : Byte, b1 ++ b0 = swapBytes (b0 ++ b1) := fun b0 b1 => by
    have h0 := b0.isLt
    have h1 := b1.isLt
    apply BitVec.eq_of_toNat_eq
    rw [swapBytes_toNat, toNat_append_add, toNat_append_add]
    omega
  induction s using wordsOf.induct with
  | case1 => rfl
  | case2 b => simp only [leWords, wordsOf, List.map_cons, List.map_nil, swap b 0#8]
  | case3 b0 b1 bs ih => simp only [leWords, wordsOf, List.map_cons, ih, swap b0 b1]

/-- Exchanging the bytes of the words multiplies their sum by 256 mod 0xFFFF, and keeps a zero sum. -/
theorem wordSum_map_swapBytes (l : List Half) :
    wordSum (l.map swapBytes) % 65535 = 256 * wordSum l % 65535 ∧
      (wordSum (l.map swapBytes) = 0 ↔ wordSum l = 0) := by
  induction l with
  | nil => simp
  | cons w l ih =>
    have hw := swapBytes_toNat w
    have hlt := w.isLt
    simp only [List.map_cons, wordSum_cons]
    omega

/-- A number congruent to 256 times another folds to the exchanged bytes of its fold. -/
theorem fold_eq_swapBytes {a b : Word} (hm : b.toNat % 65535 = 256 * a.toNat % 65535)
    (hz : b.toNat = 0 ↔ a.toNat = 0) : fold b = swapBytes (fold a) := by
  have hf := fold_eq_mod a
  have hg := fold_eq_mod b
  apply BitVec.eq_of_toNat_eq
  rw [swapBytes_toNat]
  by_cases h0 : a.toNat = 0
  · have hb : b.toNat = 0 := hz.2 h0
    omega
  · have hb : b.toNat ≠ 0 := fun h => h0 (hz.1 h)
    have hfa : (fold a).toNat % 65535 = a.toNat % 65535 := by omega
    have hgb : (fold b).toNat % 65535 = 256 * (fold a).toNat % 65535 := by omega
    omega

theorem leBytes_not_swapBytes (v : Half) : leBytes (~~~(swapBytes v)) = be16Bytes (~~~v) := by
  have hv := v.isLt
  have straight : 65535 - v.toNat = 256 * (255 - v.toNat / 256) + (255 - v.toNat % 256) := by omega
  have swapped : 65535 - (v.toNat % 256 * 256 + v.toNat / 256) =
      256 * (255 - v.toNat % 256) + (255 - v.toNat / 256) := by omega
  have split : ∀ x y, (256 * x + (255 - y)) / 256 = x ∧ (256 * x + (255 - y)) % 256 = 255 - y := fun x y => by omega
  simp only [leBytes, be16Bytes, List.cons.injEq, and_true, ← BitVec.toNat_inj, toNat_extract, BitVec.toNat_not,
    swapBytes_toNat, Nat.reducePow, Nat.reduceSub, Nat.div_one, straight, swapped, split]
  omega

/-- Settles O18: exchanging bytes is multiplication by 256 mod 0xFFFF, for the words and for their fold alike. -/
theorem checksumBytesAreOrderIndependent : Obligations.ChecksumBytesAreOrderIndependent := by
  intro s hs
  obtain ⟨hmod, hzero⟩ := wordSum_map_swapBytes (wordsOf s)
  have hle : (BitVec.ofNat 32 (wordSum (leWords s))).toNat = wordSum ((wordsOf s).map swapBytes) := by
    have hb := wordSum_le ((wordsOf s).map swapBytes)
    rw [List.length_map, wordsOf_length] at hb
    rw [leWords_eq_map_swapBytes, BitVec.toNat_ofNat, Nat.mod_eq_of_lt (by omega)]
  have hsum : (sumOf s).toNat = wordSum (wordsOf s) := sumOf_toNat (by omega)
  have hfold : fold (BitVec.ofNat 32 (wordSum (leWords s))) = swapBytes (fold (sumOf s)) :=
    fold_eq_swapBytes (by rw [hle, hsum]; exact hmod) (by rw [hle, hsum]; exact hzero)
  calc leBytes (~~~(fold (BitVec.ofNat 32 (wordSum (leWords s)))))
      _ = leBytes (~~~(swapBytes (fold (sumOf s)))) := by rw [hfold]
      _ = be16Bytes (checksum s) := leBytes_not_swapBytes _

/-! ### The commands -/

theorem sum33_toNat (a b : Word) : (sum33 a b).toNat = a.toNat + b.toNat := by
  have ha := a.isLt
  have hb := b.isLt
  rw [sum33, BitVec.toNat_add, BitVec.toNat_setWidth, BitVec.toNat_setWidth]
  omega

theorem accSum_toNat (a b : Word) : (accSum a b).toNat = (a.toNat + b.toNat) % 2 ^ 32 := by
  rw [accSum, BitVec.toNat_setWidth, sum33_toNat]

/-- The carry out of bit 31 (40_checksum R104). -/
theorem accCarry_eq (a b : Word) : accCarry a b = decide (2 ^ 32 ≤ a.toNat + b.toNat) := by
  have ha := a.isLt
  have hb := b.isLt
  rw [accCarry, BitVec.getLsbD, sum33_toNat, Nat.testBit_eq_decide_div_mod_eq, decide_eq_decide]
  omega

theorem operandW_toNat (v : Half) : (operandW v).toNat = v.toNat := by
  rw [operandW, BitVec.toNat_setWidth, Nat.mod_eq_of_lt (by have := v.isLt; omega)]

/-- An odd last byte is the word with a zero byte after it (40_checksum R100, R105). -/
theorem operandB_eq (b : Byte) : operandB b = operandW (b ++ 0#8) := rfl

theorem operandB_toNat (b : Byte) : (operandB b).toNat = 256 * b.toNat := by
  rw [operandB_eq, operandW_toNat, toNat_append_add, BitVec.toNat_ofNat]
  omega

/-- Adding to the accumulator, in numbers (40_checksum R104). -/
theorem accumulate_eq (v : Word) (s : State) :
    accumulate v s =
      { s with
        ckAcc := BitVec.ofNat 32 (s.ckAcc.toNat + v.toNat)
        accOvf := if 2 ^ 32 ≤ s.ckAcc.toNat + v.toNat then true else s.accOvf } := by
  have hsum : accSum s.ckAcc v = BitVec.ofNat 32 (s.ckAcc.toNat + v.toNat) :=
    BitVec.eq_of_toNat_eq (by rw [accSum_toNat, BitVec.toNat_ofNat])
  rw [accumulate, hsum, accCarry_eq]
  by_cases h : 2 ^ 32 ≤ s.ckAcc.toNat + v.toNat
  · simp only [h, decide_true, Bool.or_true, if_true]
  · simp only [h, decide_false, Bool.or_false, if_false]

/-- Settles O20: both commands add a value to the accumulator. -/
theorem ckAddAccumulatesWithStickyCarry : Obligations.CkAddAccumulatesWithStickyCarry := by
  refine fun s => ⟨fun v => ?_, fun b => ?_⟩
  · rw [exec, execCkAddw, accumulate_eq, operandW_toNat]
  · rw [exec, execCkAddb, accumulate_eq, operandB_toNat]

/-- Settles O19: CK_FIN's result is the complement of the two folds. -/
theorem ckClrClearsAndCkFinFolds : Obligations.CkClrClearsAndCkFinFolds := by
  refine fun s => ⟨rfl, ~~~(fold s.ckAcc), rfl, ?_⟩
  rw [BitVec.toNat_not, fold_toNat]

theorem readBytes_of_holdsAt {m : Memory} {o : Nat} {p : List Byte} (ho : o + p.length ≤ 4096) (h : holdsAt m o p) :
    readBytes m o p.length = .ok p :=
  readBytes_of_byteAt ho fun i hi => h i _ (List.getElem?_eq_getElem hi)

theorem exec_ckBuf_of_holdsAt {s : State} {p : List Byte} (hl : rangeLen s.latch.range = p.length)
    (ho : rangeBase s.latch.range + p.length ≤ 4096) (h : holdsAt s.ram (rangeBase s.latch.range) p) :
    exec .ckBuf s = .next (loadEngine p s) :=
  exec_ckBuf_of_read_ok (by rw [hl]; exact readBytes_of_holdsAt ho h)

/-- Settles O21: the range is read as it stands, or stops at an unwritten byte. -/
theorem ckBufSumsTheLatchedRange : Obligations.CkBufSumsTheLatchedRange := by
  refine fun s hr => ⟨fun p hl h => exec_ckBuf_of_holdsAt hl.symm (hl ▸ hr) h, fun o h1 h2 hn => ?_⟩
  obtain ⟨u, _, hu, hx⟩ := exec_of_unwritten (i := .ckBuf) (decide_eq_true hr) (.inl ⟨rfl, h1, h2⟩) hn
  exact ⟨u, hx, hu⟩

/-! ### Streaming -/

theorem execAll_cons {i : Instr} {s t : State} (h : exec i s = .next t) (l : List Instr) :
    execAll (i :: l) s = execAll l t := by
  simp [execAll, h]

/-- Adding a word that does not carry. -/
theorem accumulate_of_lt {v : Half} {s : State} (h : s.ckAcc.toNat + v.toNat < 2 ^ 32) :
    accumulate (operandW v) s = { s with ckAcc := BitVec.ofNat 32 (s.ckAcc.toNat + v.toNat) } := by
  rw [accumulate_eq, operandW_toNat, if_neg (by omega)]

/-- The streaming commands add the words of the sequence (40_checksum R110). -/
theorem execAll_streamAdds {p : List Byte} {s : State} (l : List Instr)
    (h : s.ckAcc.toNat + wordSum (wordsOf p) < 2 ^ 32) :
    execAll (streamAdds p ++ l) s =
      execAll l { s with ckAcc := BitVec.ofNat 32 (s.ckAcc.toNat + wordSum (wordsOf p)) } := by
  induction p using wordsOf.induct generalizing s with
  | case1 => simp [streamAdds, wordsOf]
  | case2 b =>
    simp only [wordsOf, wordSum_cons, wordSum_nil, Nat.add_zero] at h ⊢
    refine execAll_cons ?_ l
    rw [exec, execCkAddb, operandB_eq, accumulate_of_lt h]
  | case3 b0 b1 bs ih =>
    simp only [wordsOf, wordSum_cons, ← Nat.add_assoc] at h ⊢
    have hw : s.ckAcc.toNat + (b0 ++ b1 : Half).toNat < 2 ^ 32 := by omega
    have hx : exec (.ckAddw (b0 ++ b1)) s =
        .next { s with ckAcc := BitVec.ofNat 32 (s.ckAcc.toNat + (b0 ++ b1 : Half).toNat) } := by
      rw [exec, execCkAddw, accumulate_of_lt hw]
    have hacc : (BitVec.ofNat 32 (s.ckAcc.toNat + (b0 ++ b1 : Half).toNat)).toNat =
        s.ckAcc.toNat + (b0 ++ b1 : Half).toNat := by
      rw [BitVec.toNat_ofNat, Nat.mod_eq_of_lt hw]
    refine (execAll_cons hx _).trans ((ih ?_).trans ?_)
    · rw [hacc]; exact h
    · rw [hacc]

/-- Settles O17: from a cleared accumulator the streaming commands add up the sum that CK_BUF takes of the range. -/
theorem bufferChecksumEqualsStreaming : Obligations.BufferChecksumEqualsStreaming := by
  intro s p hp hl ho h
  have hsum : 0 + wordSum (wordsOf p) < 2 ^ 32 := by
    rw [Nat.zero_add]; exact wordSum_wordsOf_lt (by omega)
  refine ⟨_, _, exec_ckBuf_of_holdsAt hl ho h,
    (execAll_cons (i := .ckClr) rfl _).trans (execAll_streamAdds [.ckFin] hsum), ?_, ?_, rfl, rfl⟩
  · exact congrArg (BitVec.ofNat 32) (Nat.zero_add _).symm
  · exact congrArg (fun n => ~~~(fold (BitVec.ofNat 32 n))) (Nat.zero_add _).symm

end Sys2Proof.Machine
end

section
/-! PROOF. The Header Builder (41_builder R130 to R137, R145): the packet stands in PKT_RAM byte for byte, the rule's
own sequence of writes builds it, and its checksums verify. -/

namespace Sys2Proof.Machine

open Sys2Proof.Claims

/-! ### Byte sequences in PKT_RAM -/

theorem holdsAt_putAll (m : Memory) (o : Nat) (p : List Byte) : holdsAt (Memory.putAll m o p) o p := by
  intro k b hk
  obtain ⟨hlt, rfl⟩ := List.getElem?_eq_some_iff.1 hk
  exact byteAt_putAll_inside k hlt

theorem holdsAt_append {m : Memory} {o : Nat} {p q : List Byte} (h : holdsAt m o (p ++ q)) :
    holdsAt m o p ∧ holdsAt m (o + p.length) q := by
  refine ⟨fun k b hk => ?_, fun k b hk => ?_⟩
  · obtain ⟨hlt, _⟩ := List.getElem?_eq_some_iff.1 hk
    exact h k b (by rwa [List.getElem?_append_left hlt])
  · rw [Nat.add_assoc]
    exact h (p.length + k) b (by rwa [List.getElem?_append_right (by omega), Nat.add_sub_cancel_left])

/-- A 16-bit field of a byte sequence at offset 0 (00_scope R10). -/
theorem readBE16_field {m : Memory} {p : List Byte} {i : Nat} {v : Half} (h : holdsAt m 0 p) (hi : i + 1 < 4096)
    (h0 : p[i]? = some (v.extractLsb' 8 8)) (h1 : p[i + 1]? = some (v.extractLsb' 0 8)) : readBE16 m i = .ok v := by
  have e0 := h i _ h0
  have e1 := h (i + 1) _ h1
  rw [Nat.zero_add] at e0 e1
  rw [readBE16_of_byteAt hi e0 e1, be16_join]

/-- A 32-bit field of a byte sequence at offset 0 (00_scope R10). -/
theorem readBE32_field {m : Memory} {p : List Byte} {i : Nat} {v : Word} (h : holdsAt m 0 p) (hi : i + 3 < 4096)
    (h0 : p[i]? = some (v.extractLsb' 24 8)) (h1 : p[i + 1]? = some (v.extractLsb' 16 8))
    (h2 : p[i + 2]? = some (v.extractLsb' 8 8)) (h3 : p[i + 3]? = some (v.extractLsb' 0 8)) :
    readBE32 m i = .ok v := by
  have e0 := h i _ h0
  have e1 := h (i + 1) _ h1
  have e2 := h (i + 2) _ h2
  have e3 := h (i + 3) _ h3
  rw [Nat.zero_add] at e0 e1 e2 e3
  rw [readBE32_of_byteAt hi e0 e1 e2 e3, be32_join]

/-! ### The layout -/

/-- Every field but the IP checksum of a packet with any two checksums (41_builder R130). -/
theorem fields_of_holdsAt {m : Memory} {k : PacketKind} {cfg : Cfg} {peerSeq : Word} {c c' : Half}
    (h : holdsAt m 0 (ipHeader cfg c ++ tcpHeader k cfg peerSeq c')) :
    Memory.byteAt m 0x00 = some 0x45#8 ∧ Memory.byteAt m 0x01 = some 0x00#8 ∧
    readBE16 m 0x02 = .ok 40#16 ∧ readBE16 m 0x04 = .ok cfg.ipId ∧ readBE16 m 0x06 = .ok 0#16 ∧
    Memory.byteAt m 0x08 = some (cfg.winTtl.extractLsb' 16 8) ∧ Memory.byteAt m 0x09 = some 0x06#8 ∧
    readBE32 m 0x0C = .ok cfg.clientAddr ∧ readBE32 m 0x10 = .ok cfg.serverAddr ∧
    readBE16 m 0x14 = .ok (cfg.ports.extractLsb' 0 16) ∧ readBE16 m 0x16 = .ok (cfg.ports.extractLsb' 16 16) ∧
    readBE32 m 0x18 = .ok (k.seqNumber cfg) ∧ readBE32 m 0x1C = .ok (k.ackNumber peerSeq) ∧
    Memory.byteAt m 0x20 = some 0x50#8 ∧ Memory.byteAt m 0x21 = some k.flags ∧
    readBE16 m 0x22 = .ok (cfg.winTtl.extractLsb' 0 16) ∧ readBE16 m 0x24 = .ok c' ∧ readBE16 m 0x26 = .ok 0#16 := by
  refine ⟨h 0x00 _ rfl, h 0x01 _ rfl, readBE16_field h (by decide) rfl rfl, readBE16_field h (by decide) rfl rfl,
    readBE16_field h (by decide) rfl rfl, h 0x08 _ rfl, h 0x09 _ rfl, readBE32_field h (by decide) rfl rfl rfl rfl,
    readBE32_field h (by decide) rfl rfl rfl rfl, readBE16_field h (by decide) rfl rfl,
    readBE16_field h (by decide) rfl rfl, readBE32_field h (by decide) rfl rfl rfl rfl,
    readBE32_field h (by decide) rfl rfl rfl rfl, h 0x20 _ rfl, h 0x21 _ rfl, readBE16_field h (by decide) rfl rfl,
    readBE16_field h (by decide) rfl rfl, readBE16_field h (by decide) rfl rfl⟩

theorem holdsAt_build (k : PacketKind) (cfg : Cfg) (peerSeq : Word) (s : State) :
    holdsAt (build k cfg peerSeq s).ram 0 (txPacket k cfg peerSeq) := by
  rw [build_ram]
  exact holdsAt_putAll _ _ _

/-- Settles O23: the packet's bytes field by field, with the TCP checksum field 0 if the option is off. -/
theorem builtPacketHasTheLayout : Obligations.BuiltPacketHasTheLayout := by
  intro k cfg peerSeq s
  obtain ⟨h00, h01, h02, h04, h06, h08, h09, h0C, h10, h14, h16, h18, h1C, h20, h21, h22, h24, h26⟩ :=
    fields_of_holdsAt (holdsAt_build k cfg peerSeq s)
  refine ⟨h00, h01, h02, h04, h06, h08, h09, h0C, h10, h14, h16, ?_, ?_, h20, ?_, h22, fun he => ?_, h26,
    fun a ha => ?_⟩
  · rw [h18]; cases k <;> rfl
  · rw [h1C]; cases k <;> rfl
  · rw [h21]; cases k <;> rfl
  · rw [h24, tcpCsumField, Cfg.tcpCsumEn, he]; rfl
  · rw [build_ram]; exact byteAt_putAll_txPacket ha _ _ _ _

/-! ### The checksum fields -/

/-- The bytes of the IPv4 header before its checksum field (41_builder R130). -/
def ipFront (cfg : Cfg) : List Byte :=
  [0x45#8, 0x00#8] ++ be16Bytes 0x0028#16 ++ be16Bytes cfg.ipId ++ be16Bytes 0x0000#16 ++ [ttlOf cfg.winTtl, 0x06#8]

/-- The bytes of the IPv4 header behind its checksum field (41_builder R130). -/
def ipBack (cfg : Cfg) : List Byte := be32Bytes cfg.clientAddr ++ be32Bytes cfg.serverAddr

/-- The bytes of the TCP header before its checksum field (41_builder R130). -/
def tcpFront (k : PacketKind) (cfg : Cfg) (peerSeq : Word) : List Byte :=
  be16Bytes (clientPort cfg.ports) ++ be16Bytes (serverPort cfg.ports)
    ++ be32Bytes (k.seqNumber cfg) ++ be32Bytes (k.ackNumber peerSeq)
    ++ [0x50#8, k.flags] ++ be16Bytes (windowOf cfg.winTtl)

theorem ipHeader_eq (cfg : Cfg) (c : Half) : ipHeader cfg c = ipFront cfg ++ be16Bytes c ++ ipBack cfg := rfl

theorem tcpHeader_eq (k : PacketKind) (cfg : Cfg) (peerSeq : Word) (c : Half) :
    tcpHeader k cfg peerSeq c = tcpFront k cfg peerSeq ++ be16Bytes c ++ be16Bytes 0x0000#16 := rfl

/-- The bytes the IP checksum covers behind its own field, the TCP checksum final (41_builder R135). -/
def ipRest (k : PacketKind) (cfg : Cfg) (peerSeq : Word) : List Byte :=
  ipBack cfg ++ if cfg.ipCsumHdr then [] else tcpHeader k cfg peerSeq (tcpCsumField k cfg peerSeq)

theorem ipCovered_eq (k : PacketKind) (cfg : Cfg) (peerSeq : Word) :
    ipCovered k cfg peerSeq = ipFront cfg ++ be16Bytes 0#16 ++ ipRest k cfg peerSeq := by
  rw [ipCovered, ipRest, ipHeader_eq]
  cases cfg.ipCsumHdr <;> simp

@[simp] theorem be16Bytes_length (v : Half) : (be16Bytes v).length = 2 := rfl

@[simp] theorem ipBack_length (cfg : Cfg) : (ipBack cfg).length = 8 := rfl

@[simp] theorem pseudoHeader_length (cfg : Cfg) : (pseudoHeader cfg).length = 12 := rfl

@[simp] theorem ipFront_length (cfg : Cfg) : (ipFront cfg).length = 10 := rfl

@[simp] theorem tcpFront_length (k : PacketKind) (cfg : Cfg) (peerSeq : Word) :
    (tcpFront k cfg peerSeq).length = 16 := rfl

/-! ### The rule's own sequence -/

/-- Writing a field again inside bytes written before. -/
theorem putAll_patch {m : Memory} (hm : Memory.wf m = true) {o : Nat} {front field field' back : List Byte}
    (hl : field'.length = field.length) (ho : o + (front ++ field ++ back).length ≤ 4096) :
    Memory.putAll (Memory.putAll m o (front ++ field ++ back)) (o + front.length) field' =
      Memory.putAll m o (front ++ field' ++ back) := by
  simp only [List.length_append] at ho
  refine memory_ext (wf_putAll (wf_putAll hm (by simpa [Nat.add_assoc] using ho)) (by omega))
    (wf_putAll hm (by simp only [List.length_append]; omega)) fun a => ?_
  simp only [byteAt_putAll, List.length_append]
  by_cases hin : o + front.length ≤ a ∧ a < o + front.length + field'.length
  · rw [if_pos hin, if_pos (by omega), List.append_assoc, List.getElem?_append_right (by omega),
      List.getElem?_append_left (by omega), Nat.sub_sub]
  · rw [if_neg hin]
    by_cases hr : o ≤ a ∧ a < o + (front.length + field.length + back.length)
    · rw [if_pos hr, if_pos (by omega)]
      by_cases hf : a < o + front.length
      · rw [List.append_assoc, List.append_assoc, List.getElem?_append_left (by omega),
          List.getElem?_append_left (by omega)]
      · rw [List.getElem?_append_right (by simp; omega), List.getElem?_append_right (by simp; omega)]
        simp only [List.length_append, hl]
    · rw [if_neg hr, if_neg (by omega)]

/-- The writes of `Build` up to its checksums, in one run of rising offsets (41_builder R133). -/
theorem buildFieldsStepwise_eq (k : PacketKind) (cfg : Cfg) (peerSeq : Word) (m : Memory) :
    buildFieldsStepwise k cfg peerSeq m =
      Memory.putAll m 0 (ipHeader cfg 0#16 ++ tcpHeader k cfg peerSeq 0#16) := by
  simp only [buildFieldsStepwise, putBE16, putBE32, ipHeader, tcpHeader, be16Bytes, be32Bytes, List.cons_append,
    List.nil_append, Memory.putAll, Nat.reduceAdd]

/-- `TcpChecksum` puts the field's final value (41_builder R134). -/
theorem tcpChecksumStepwise_eq {m : Memory} (hm : Memory.wf m = true) (k : PacketKind) (cfg : Cfg) (peerSeq : Word) :
    tcpChecksumStepwise cfg (Memory.putAll m 0 (ipHeader cfg 0#16 ++ tcpHeader k cfg peerSeq 0#16)) =
      .ok (Memory.putAll m 0 (ipHeader cfg 0#16 ++ tcpHeader k cfg peerSeq (tcpCsumField k cfg peerSeq))) := by
  unfold tcpChecksumStepwise tcpCsumField
  by_cases he : cfg.tcpCsumEn = true
  · have hread := readBytes_of_holdsAt (by simp) (holdsAt_append (holdsAt_putAll m 0
      (ipHeader cfg 0#16 ++ tcpHeader k cfg peerSeq 0#16))).2
    simp only [ipHeader_length, tcpHeader_length, Nat.zero_add] at hread
    rw [if_pos he, if_pos he, hread]
    exact congrArg Except.ok (putAll_patch hm (front := ipHeader cfg 0#16 ++ tcpFront k cfg peerSeq)
      (field := be16Bytes 0#16) (back := be16Bytes 0#16) rfl (by simp))
  · rw [if_neg he, if_neg he]

/-- The covered bytes of a packet that stands at offset 0, with any value in the IP checksum field. -/
theorem readBytes_covered {m : Memory} {k : PacketKind} {cfg : Cfg} {peerSeq : Word} {c : Half}
    (h : holdsAt m 0 (ipHeader cfg c ++ tcpHeader k cfg peerSeq (tcpCsumField k cfg peerSeq))) :
    readBytes m 0x000 (if cfg.ipCsumHdr then 20 else 40) =
      .ok (ipFront cfg ++ be16Bytes c ++ ipRest k cfg peerSeq) := by
  rw [ipRest, ← List.append_assoc, ← ipHeader_eq]
  cases cfg.ipCsumHdr with
  | true => simpa using readBytes_of_holdsAt (by simp) (holdsAt_append h).1
  | false => simpa using readBytes_of_holdsAt (by simp) h

/-- `IpChecksum` sums the covered bytes and puts the result in their field (41_builder R135). -/
theorem ipChecksumStepwise_eq {s : State} (hm : Memory.wf s.ram = true) (k : PacketKind) (cfg : Cfg)
    (peerSeq : Word) :
    ipChecksumStepwise cfg
      { s with ram := Memory.putAll s.ram 0
                        (ipHeader cfg 0#16 ++ tcpHeader k cfg peerSeq (tcpCsumField k cfg peerSeq)) } =
      .ok (build k cfg peerSeq s) := by
  have hread := readBytes_covered (holdsAt_putAll s.ram 0
    (ipHeader cfg 0#16 ++ tcpHeader k cfg peerSeq (tcpCsumField k cfg peerSeq)))
  rw [← ipCovered_eq] at hread
  have patch : putBE16 0x0A (checksum (ipCovered k cfg peerSeq)) (Memory.putAll s.ram 0
      (ipHeader cfg 0#16 ++ tcpHeader k cfg peerSeq (tcpCsumField k cfg peerSeq))) =
      Memory.putAll s.ram 0 (txPacket k cfg peerSeq) := by
    rw [txPacket, ipHeader_eq, ipHeader_eq, List.append_assoc (ipFront cfg ++ _),
      List.append_assoc (ipFront cfg ++ _)]
    exact putAll_patch hm rfl (by simp)
  simp only [ipChecksumStepwise, hread, patch, build, loadEngine, Config.txBase]

/-- Settles O24: the writes in rising offsets, then each checksum over the bytes they left. -/
theorem buildFollowsTheWrittenSequence : Obligations.BuildFollowsTheWrittenSequence := by
  intro k cfg peerSeq s hm
  rw [buildStepwise, buildFieldsStepwise_eq, tcpChecksumStepwise_eq hm]
  exact ipChecksumStepwise_eq hm k cfg peerSeq

/-! ### Verification -/

/-- The two headers of a packet that stands at offset 0. -/
theorem readBytes_headers {m : Memory} {k : PacketKind} {cfg : Cfg} {peerSeq : Word} {c c' : Half}
    (h : holdsAt m 0 (ipHeader cfg c ++ tcpHeader k cfg peerSeq c')) :
    readBytes m 0x000 20 = .ok (ipHeader cfg c) ∧ readBytes m 0x014 20 = .ok (tcpHeader k cfg peerSeq c') :=
  ⟨readBytes_of_holdsAt (p := ipHeader cfg c) (by simp) (holdsAt_append h).1,
    readBytes_of_holdsAt (p := tcpHeader k cfg peerSeq c') (by simp) (holdsAt_append h).2⟩

/-- Settles O26: the field lies at an even offset of pseudo-header and TCP header, and holds their checksum. -/
theorem tcpChecksumVerifies : Obligations.TcpChecksumVerifies := by
  intro k cfg peerSeq s he
  refine ⟨_, (readBytes_headers (holdsAt_build k cfg peerSeq s)).2, ?_⟩
  have hf : tcpCsumField k cfg peerSeq =
      checksum (pseudoHeader cfg ++ tcpFront k cfg peerSeq ++ be16Bytes 0#16 ++ be16Bytes 0#16) := by
    rw [tcpCsumField, Cfg.tcpCsumEn, if_pos he, tcpHeader_eq]
    simp only [List.append_assoc]
  have hv := fold_of_inserted (pre := pseudoHeader cfg ++ tcpFront k cfg peerSeq) (post := be16Bytes 0#16)
    (by simp) (by simp)
  rw [← hf, ← checksum_eq_zero_iff] at hv
  rw [tcpHeader_eq]
  simpa only [pseudoHeader, List.append_assoc] using hv

/-- A built packet's covered bytes verify (41_builder R145). -/
theorem fold_of_built (k : PacketKind) (cfg : Cfg) (peerSeq : Word) :
    fold (sumOf (ipFront cfg ++ be16Bytes (checksum (ipCovered k cfg peerSeq)) ++ ipRest k cfg peerSeq)) =
      0xFFFF#16 := by
  rw [ipCovered_eq]
  refine fold_of_inserted (by simp) ?_
  rw [ipRest]
  cases cfg.ipCsumHdr <;> simp

/-- The sums of a sequence's two parts, the first of even length. -/
theorem sumOf_append_toNat {p q : List Byte} (h : p.length % 2 = 0) (hl : (p ++ q).length ≤ 131074) :
    (sumOf (p ++ q)).toNat = (sumOf p).toNat + (sumOf q).toNat := by
  rw [List.length_append] at hl
  rw [sumOf_toNat (by rwa [List.length_append]), sumOf_toNat (by omega), sumOf_toNat (by omega), wordsOf_append h,
    wordSum_append]

/-- The IPv4 header's first word is 0x4500, so its words do not sum to 0 (41_builder R130). -/
theorem sumOf_ipHeader_ne_zero (cfg : Cfg) (c : Half) : sumOf (ipHeader cfg c) ≠ 0#32 := by
  rw [Ne, sumOf_eq_zero_iff (by simp)]
  exact fun h => absurd (h 0x4500#16 (List.mem_cons_self ..)) (by decide)

/-- Where the whole packet verifies, its IPv4 header does exactly if the TCP header's words sum to a multiple of
0xFFFF. -/
theorem checksum_ipHeader_eq_zero_iff {cfg : Cfg} {c : Half} {tcp : List Byte} (hl : tcp.length = 20)
    (h : fold (sumOf (ipHeader cfg c ++ tcp)) = 0xFFFF#16) :
    checksum (ipHeader cfg c) = 0#16 ↔ (sumOf tcp).toNat % 65535 = 0 := by
  have hsum := sumOf_append_toNat (p := ipHeader cfg c) (q := tcp) (by simp) (by simp [hl])
  have hmod := ((fold_eq_ones_iff _).1 h).2
  rw [checksum_eq_zero_iff, fold_eq_ones_iff, and_iff_right (sumOf_ipHeader_ne_zero cfg c)]
  omega

/-- Settles O25: the checksum is inserted into its own field, the header alone verifies up to the TCP header's sum,
and the test SYN's header is computed. -/
theorem builtPacketVerifies : Obligations.BuiltPacketVerifies := by
  refine ⟨fun k cfg peerSeq s => ?_, fun k cfg peerSeq s he => ?_, ?_⟩
  · exact ⟨_, readBytes_covered (holdsAt_build k cfg peerSeq s),
      (checksum_eq_zero_iff _).2 (fold_of_built k cfg peerSeq)⟩
  · obtain ⟨hip, htcp⟩ := readBytes_headers (holdsAt_build k cfg peerSeq s)
    refine ⟨_, _, hip, htcp, checksum_ipHeader_eq_zero_iff (tcpHeader_length ..) ?_⟩
    have hv := fold_of_built k cfg peerSeq
    rw [ipRest, Cfg.ipCsumHdr, he, ← List.append_assoc, ← ipHeader_eq] at hv
    exact hv
  · exact ⟨_, (readBytes_headers (holdsAt_build .syn testCfg 0#32 State.reset)).1, by decide⟩

end Sys2Proof.Machine
end

section
/-! PROOF. The Matcher (42_matcher R162 to R173): its verdict on a packet of written bytes, and the commands that use
it. -/

namespace Sys2Proof.Machine

open Sys2Proof.Claims

/-! ### Fields of a packet that stands in PKT_RAM -/

theorem byteAt_of_holdsAt {m : Memory} {o i : Nat} {p : List Byte} (h : holdsAt m o p) (hi : i < p.length) :
    Memory.byteAt m (o + i) = some (p.getD i 0#8) :=
  h i _ (by rw [List.getD_eq_getElem _ _ hi, List.getElem?_eq_getElem hi])

section
variable {m : Memory} {o i : Nat} {p : List Byte} (h : holdsAt m o p) (ho : o + p.length ≤ 4096)
include h ho

theorem readBE16_of_holdsAt (hi : i + 2 ≤ p.length) : readBE16 m (o + i) = .ok (be16At p i) :=
  readBE16_of_byteAt (by omega) (byteAt_of_holdsAt h (by omega))
    (byteAt_of_holdsAt (i := i + 1) h (by omega))

theorem readBE32_of_holdsAt (hi : i + 4 ≤ p.length) : readBE32 m (o + i) = .ok (be32At p i) := by
  have e0 : readBE16 m (o + i) = .ok (be16At p i) := readBE16_of_holdsAt h ho (by omega)
  have e2 : readBE16 m (o + i + 2) = .ok (be16At p (i + 2)) := readBE16_of_holdsAt (i := i + 2) h ho (by omega)
  rw [readBE32, e0]
  simp only [e2]
  rfl

/-- The TCP part of `Match` on a packet of written bytes (42_matcher R162). -/
theorem matchTcp_of_holdsAt (cfg : Cfg) (hi : i + 20 ≤ p.length) :
    matchTcp cfg m (o + i) =
      .ok (if fourCriteria cfg (be16At p i) (be16At p (i + 2)) (be32At p (i + 8)) (p.getD (i + 13) 0#8)
        then some (be32At p (i + 4)) else none) := by
  have e0 : readBE16 m (o + i) = .ok (be16At p i) := readBE16_of_holdsAt h ho (by omega)
  have e2 : readBE16 m (o + i + 2) = .ok (be16At p (i + 2)) := readBE16_of_holdsAt (i := i + 2) h ho (by omega)
  have e4 : readBE32 m (o + i + 4) = .ok (be32At p (i + 4)) := readBE32_of_holdsAt (i := i + 4) h ho (by omega)
  have e8 : readBE32 m (o + i + 8) = .ok (be32At p (i + 8)) := readBE32_of_holdsAt (i := i + 8) h ho (by omega)
  have e13 : readByte m (o + i + 13) = .ok (p.getD (i + 13) 0#8) :=
    readByte_of_byteAt (by omega) (byteAt_of_holdsAt (i := i + 13) h (by omega))
  simp only [matchTcp, e0, e2, e4, e8, e13]

end

/-! ### The verdict -/

/-- The header length of a packet in bytes (42_matcher R161). -/
def tcpOffset (p : List Byte) : Nat := 4 * ((p.getD 0 0#8).extractLsb' 0 4).toNat

/-- The structural conditions and the four criteria, as the matcher evaluates them. -/
theorem matchesPacket_iff (cfg : Cfg) (p : List Byte) :
    matchesPacket cfg p ↔
      40 ≤ p.length ∧ 20 ≤ tcpOffset p ∧ tcpOffset p + 20 ≤ p.length ∧
        fourCriteria cfg (be16At p (tcpOffset p)) (be16At p (tcpOffset p + 2)) (be32At p (tcpOffset p + 8))
          (p.getD (tcpOffset p + 13) 0#8) = true := by
  simp only [matchesPacket, tcpOffset, fourCriteria, Bool.and_eq_true, beq_iff_eq, serverPort, clientPort, highHalf,
    lowHalf]
  constructor
  · rintro ⟨hn, hihl, hfit, hsport, hdport, hsyn, hack, hnum⟩
    exact ⟨hn, by omega, hfit, ⟨⟨⟨hsport, hdport⟩, hsyn⟩, hack⟩, hnum⟩
  · rintro ⟨hn, hihl, hfit, ⟨⟨⟨hsport, hdport⟩, hsyn⟩, hack⟩, hnum⟩
    exact ⟨hn, by omega, hfit, hsport, hdport, hsyn, hack, hnum⟩

/-- The verdict on a packet of written bytes (42_matcher R162). -/
theorem matchPacket_of_holdsAt {cfg : Cfg} {m : Memory} {p : List Byte} (hl : p.length ≤ 4032)
    (h : holdsAt m 0x040 p) :
    (matchesPacket cfg p → matchPacket cfg p.length m = .ok (some (packetSeq p))) ∧
      (¬ matchesPacket cfg p → matchPacket cfg p.length m = .ok none) := by
  rw [matchesPacket_iff]
  rcases Nat.lt_or_ge p.length 40 with hn | hn
  · exact ⟨fun hm => absurd hm.1 (by omega), fun _ => matchPacket_of_lt hn cfg m⟩
  rw [matchPacket_of_byteAt_some hn (byteAt_of_holdsAt (i := 0) h (by omega))]
  by_cases hs : 20 ≤ tcpOffset p ∧ tcpOffset p + 20 ≤ p.length
  · have htcp := matchTcp_of_holdsAt h (by omega) cfg hs.2
    rw [if_neg (by simp only [tcpOffset] at hs; omega)]
    refine ⟨fun ⟨_, _, _, hc⟩ => htcp.trans (by rw [if_pos hc]; rfl), fun hm => htcp.trans ?_⟩
    rw [if_neg fun hc => hm ⟨hn, hs.1, hs.2, hc⟩]
  · refine ⟨fun ⟨_, h1, h2, _⟩ => absurd ⟨h1, h2⟩ hs, fun _ => if_pos ?_⟩
    simp only [tcpOffset] at hs
    omega

/-- Settles O29: the matcher reads the fields of the packet, and evaluates the criteria on them. -/
theorem matchIsExactlyTheFourCriteria : Obligations.MatchIsExactlyTheFourCriteria :=
  fun _ _ _ => matchPacket_of_holdsAt

/-! ### The commands -/

/-- The verdict on the packet of the latched length (42_matcher R170, R173). -/
theorem latchedMatch_of_holdsAt {s : State} {p : List Byte} (hl : p.length ≤ 4032)
    (hn : s.latch.rxLen.toNat = p.length) (h : holdsAt s.ram 0x040 p) :
    (matchesPacket s.latch.cfg p → s.latchedMatch = .ok (some (packetSeq p))) ∧
      (¬ matchesPacket s.latch.cfg p → s.latchedMatch = .ok none) := by
  rw [State.latchedMatch, hn]
  exact matchPacket_of_holdsAt hl h

theorem exec_matchTest_of_verdict {s : State} {v : Option Word} (h : s.latchedMatch = .ok v) :
    exec .matchTest s = .next { s with lastMatch := v.isSome } := by
  simp only [exec, execMatchTest, h]

/-- Settles O34: MATCH_TEST keeps of the verdict whether there is one. -/
theorem matchTestWritesTheVerdictOnly : Obligations.MatchTestWritesTheVerdictOnly := by
  intro s p hl hn h
  obtain ⟨hyes, hno⟩ := latchedMatch_of_holdsAt hl hn h
  exact ⟨fun hm => exec_matchTest_of_verdict (hyes hm), fun hm => exec_matchTest_of_verdict (hno hm)⟩

theorem exec_rxPush_of_accepted {s : State} {seq : Word} (hs : s.session = .synSent)
    (hv : s.latchedMatch = .ok (some seq)) : exec .rxPush s = .next (acceptSynAck seq s) := by
  simp only [exec, execRxPush, if_pos hs, hv]

/-- Settles O32: outside SYN_SENT the packet is not looked at; in it the verdict decides between the two branches. -/
theorem rxPushAcceptsRejectsOrIgnores : Obligations.RxPushAcceptsRejectsOrIgnores := by
  refine ⟨fun s => exec_rxPush_of_ignored, fun s p hs hl hn h => ?_⟩
  obtain ⟨hyes, hno⟩ := latchedMatch_of_holdsAt hl hn h
  refine ⟨fun hm => exec_rxPush_of_rejected hs (hno hm),
    fun hm => ⟨?_, fun t hx a ha => exec_ram_frame (exec_effect hx) ha⟩⟩
  rw [exec_rxPush_of_accepted hs (hyes hm), acceptSynAck, offerPacket_build]

end Sys2Proof.Machine
end
